-- ==== Sys2Proof/Word.lean ====
section
/-! DEFINITION. The vector types of the block (spec/00_scope.md section 5.1): `bvN` is `BitVec N`, bit 0 the least
significant. -/

namespace Sys2Proof

/-- One byte on a port, and one character (00 section 5.3). -/
abbrev Byte := BitVec 8

/-- The value of one hexadecimal digit (30 R49). -/
abbrev Nibble := BitVec 4

/-- A Word: 72 bits, `W` of 00 R4. -/
abbrev Word := BitVec 72

/-- The 64 bits the special path swaps after the top byte is held out (41 R71). -/
abbrev Low64 := BitVec 64

end Sys2Proof
end

