-- ==== Sys2Proof/Config.lean ====
section
/-! DEFINITION. The fixed parameters of the hardware (00 R4) and the open ones (00 R6). The open ones have no body: nothing
can be proved about their values. -/

namespace Sys2Proof

/-- `W`: width of a Word in bits (00 R4). -/
abbrev Config.W : Nat := 72

/-- `NHEX`: hexadecimal digits per Word (00 R4). -/
abbrev Config.NHEX : Nat := 18

/-- `LINEW`: data characters per output line (00 R4). -/
abbrev Config.LINEW : Nat := 16

/-- `MARKER`: the character `@`, first of a header line (00 R4, section 5.3). -/
abbrev Config.MARKER : Byte := 0x40#8

/-- `NSTAGE`: stages of the fast path (00 R4; 90 C10). -/
abbrev Config.NSTAGE : Nat := 5

/-- The line feed, the only line terminator and the inserted newline (00 section 5.3, 30 R42, 43 R102). -/
abbrev Config.LF : Byte := 0x0A#8

/-- One draw of the open parameter `UPSET`: the triple `(e_f, e_s, e_n)` exclusive-or-ed onto the three path results
(00 R6, 42 R83). -/
structure Upset where
  f : Word
  s : Word
  n : Word
deriving DecidableEq, Repr, Inhabited

/-- The nominal value of `UPSET` for one Word: `(0, 0, 0)` (00 R6). -/
def Upset.nominal : Upset := ⟨0, 0, 0⟩

/-- The open parameter `UPSET` (00 R6): any function from the index of a Word in the run to a triple. No body (log 1). -/
opaque Config.upset : Nat → Upset

/-- The free text of the open parameter `DIAG_LINE` (00 R6). No body; it is made into one line where it is used (log 2). -/
opaque Config.diagText : List Byte

end Sys2Proof
end

