-- ==== Sys2Proof/Syntax.lean ====
section
/-! DEFINITION. The items of the input stream, the positions of the line state machine, and the operations of the block:
one constructor of `Instr` for each row of spec/opcode_table.json (30 R55). -/

namespace Sys2Proof

/-- What `InGet()` delivers: a byte, or the end-of-stream mark (00 section 5.2, 20 R29). -/
inductive Item where
  | byte (b : Byte)
  | eos
deriving DecidableEq, Repr

/-- How a line ends (30 R42, R43). -/
inductive Term where
  | lf
  | eos
deriving DecidableEq, Repr

/-- The item that a line's end is. -/
def Term.item : Term → Item
  | .lf => .byte Config.LF
  | .eos => .eos

/-- The bytes that a line's end contributes to the line: its LF, or none (43 R95: no LF is supplied at `EOS`). -/
def Term.bytes : Term → List Byte
  | .lf => [Config.LF]
  | .eos => []

/-- `LSTATE` (10 R14): which kind of line the block is inside. -/
inductive LState where
  | sol
  | hdr
  | data
deriving DecidableEq, Repr

/-- The two ways a data line can be malformed, the values of `ICAUSE` (10 R23). -/
inductive ICause where
  | nonHex
  | length
deriving DecidableEq, Repr

/-- The operations of the block, in the order of 30 R55. Operands are those of each operation's rule. -/
inductive Instr where
  /-- 40 R61. -/
  | swap1 (x : Word)
  /-- 40 R62. -/
  | swap2 (x : Word)
  /-- 40 R63. -/
  | swap4 (x : Word)
  /-- 40 R64. -/
  | swapb (x : Word)
  /-- 40 R65. -/
  | swapl (x : Word)
  /-- 40 R66. -/
  | fast (x : Word)
  /-- 41 R71. -/
  | split (x : Word)
  /-- 41 R72. -/
  | bsw8 (w : Low64)
  /-- 41 R73. -/
  | bsw16 (w : Low64)
  /-- 41 R74. -/
  | bsw32 (w : Low64)
  /-- 41 R75. -/
  | join (w : Low64) (t : Byte)
  /-- 41 R77. -/
  | special (x : Word)
  /-- 41 R79: cell `k`, `k = 0 .. 35`. -/
  | pcell (k : Fin 36) (x : Word)
  /-- 41 R80. -/
  | normal (x : Word)
  /-- 42 R85: the three path values. -/
  | verify (yf ys yn : Word)
  /-- 42 R86. -/
  | pass (yf : Word)
  /-- 42 R87. -/
  | revword (x : Word)
  /-- 43 R94. -/
  | rxsol (it : Item)
  /-- 43 R95. -/
  | rxhdr (it : Item)
  /-- 43 R96 to R100. -/
  | rxdata (it : Item)
  /-- 43 R101: its operand is `ACC`. -/
  | word
  /-- 43 R102. -/
  | emit (c : Byte)
  /-- 43 R103. -/
  | emitword (y : Word)
  /-- 43 R107, 30 R47: the bytes after the `@`, and the line's end. -/
  | hdr (payload : List Byte) (tm : Term)
  /-- 43 R107, 30 R48: the line's bytes as received, and its end. -/
  | data (line : List Byte) (tm : Term)
  /-- 70 R129: the level of the strap `mode_in`, `none` when unconnected. -/
  | reset (modeIn : Option (BitVec 1))
deriving DecidableEq, Repr

end Sys2Proof
end

