-- ==== Sys2Proof/Machine/State.lean ====
section
/-! DEFINITION. The state of the block (spec/10_state.md), the streams the host keeps (10 R25), the open parameters as plain data
(00 R6), and the reasons a step can stop. -/

namespace Sys2Proof.Machine

/-- `STATUS` (10 R20). -/
inductive Status where
  | run
  | done
  | fault
deriving DecidableEq, Repr

/-- What the host does to the block (00 R8), in the order it does it (log 3). -/
inductive HostEvent where
  /-- One item delivered through `IN` (20 R29). -/
  | item (it : Item)
  /-- One whole line delivered at once: the line-level view of 43 R107. -/
  | line (bytes : List Byte) (tm : Term)
  /-- Reset asserted, with the level of the strap `mode_in`, `none` when unconnected (70 R129, R132). -/
  | reset (modeIn : Option (BitVec 1))
deriving DecidableEq, Repr

/-- The open parameter `UPSET` (00 R6) as plain data (log 1): free, or given for the first Words of a run and nominal after
them. `listed []` is the nominal `UPSET`. -/
inductive UpsetSource where
  | free
  | listed (es : List Upset)
deriving DecidableEq, Repr

/-- The text of the open parameter `DIAG_LINE` (00 R6) as plain data (log 2): free, or given. -/
inductive DiagSource where
  | free
  | text (t : List Byte)
deriving DecidableEq, Repr

/-- Result wires of a combinational operation executed by itself (log 7). They are values inside a step and no state of the block
(10 R18): no step reads or writes them. -/
structure Wires where
  /-- A 72-bit result. -/
  y : Word
  /-- A 64-bit result (`SPLIT`, `BSW8`, `BSW16`, `BSW32`). -/
  w : Low64
  /-- The held-out byte (`SPLIT`). -/
  t : Byte
deriving DecidableEq, Repr

/-- The state. -/
structure State where
  /-- `MODE` (10 R12): 1 verified, 0 fast. -/
  mode : BitVec 1
  /-- `COL` (10 R13): data characters on the current output line. -/
  col : BitVec 4
  /-- `LSTATE` (10 R14). -/
  lstate : LState
  /-- `ACC` (10 R15). -/
  acc : Word
  /-- `NDIG` (10 R16): 0 to 18. -/
  ndig : Fin 19
  /-- `WIDX` (10 R17), the ghost index of the next Word. -/
  widx : Nat
  /-- `STATUS` (10 R20). -/
  status : Status
  /-- `CAUSE` (10 R21). -/
  cause : BitVec 2
  /-- `VINFO` (10 R22). -/
  vinfo : BitVec 2
  /-- `ICAUSE` (10 R23). -/
  icause : BitVec 2
  /-- `IN` (20 R29) and the reset input: the host's actions not yet taken, oldest first. -/
  input : List HostEvent
  /-- `OUT` (20 R30): the bytes put so far. -/
  out : List Byte
  /-- `DIAG` (20 R31): the bytes put so far. -/
  diag : List Byte
  /-- The open parameter `UPSET` (the model's own field, log 1). -/
  upset : UpsetSource
  /-- The open parameter `DIAG_LINE` (the model's own field, log 2). -/
  diagText : DiagSource
  /-- Result wires (the model's own field, log 7). -/
  wires : Wires
deriving DecidableEq, Repr

/-- The block stops in no way that is not a next state: its two faults (60 R113) are next states with `STATUS = FAULT`, so no
step answers an outcome `fault` (log 9). -/
inductive Fault
deriving DecidableEq, Repr

/-- Why a step or a meaning answers no next state. -/
inductive Refusal where
  /-- Raised by `exec`'s arm of an instruction that has no meaning. Safe. -/
  | notModelled (mnemonic : String)
  /-- Raised by `step` when `STATUS = RUN` and the host has delivered nothing: no step is enabled until it does (60 R128). Safe
  (log 5). -/
  | awaitingItem
  /-- Raised by every operation that is not combinational and not RESET when `STATUS` is not RUN, and by `step` when then nothing is
  pending: "no step is enabled" (43 R106), and an item delivered then is to be refused (93 part 2). Safe (log 5). -/
  | runEnded
  /-- Raised by a formatter operation executed where its selector (30 R55) does not hold: another `LSTATE`, fewer than 18
  digits, bytes that are no line of its format. The block never performs it there. Safe (log 6). -/
  | notSelected
deriving DecidableEq, Repr

/-- The machine right after reset with the strap unconnected (10 R26, 70 R129), the streams empty (70 R132), the open parameters
free, the result wires zero. -/
def State.reset : State where
  mode := 1
  col := 0
  lstate := .sol
  acc := 0
  ndig := 0
  widx := 0
  status := .run
  cause := 0
  vinfo := 0
  icause := 0
  input := []
  out := []
  diag := []
  upset := .free
  diagText := .free
  wires := ⟨0, 0, 0⟩

end Sys2Proof.Machine
end

