-- ==== Sys2Proof/Machine/Flags.lean ====
section
/-! DEFINITION. The block has no flags (10 R19). Here are the nearest things: the comparator outputs, the fault information they
make, and the status output `EXIT` (10 R22 to R24, 42 R84). -/

namespace Sys2Proof.Machine

/-- `m_s`: the special path's value differs from the fast path's (42 R84). -/
def mS (yf ys : Word) : BitVec 1 := BitVec.ofBool (ys != yf)

/-- `m_n`: the normal path's value differs from the fast path's (42 R84). -/
def mN (yf yn : Word) : BitVec 1 := BitVec.ofBool (yn != yf)

/-- `vinfo = { m_n, m_s }` (42 R85): bit 0 special, bit 1 normal (10 R22). -/
def vinfoOf (yf ys yn : Word) : BitVec 2 := mN yf yn ++ mS yf ys

/-- The code of an `ICAUSE` (10 R23). -/
def icauseCode : ICause → BitVec 2
  | .nonHex => 1
  | .length => 2

/-- `EXIT` (10 R24): a function of `STATUS` and `CAUSE`. -/
def State.exit (s : State) : BitVec 2 :=
  match s.status with
  | .run => 0
  | .done => 0
  | .fault => s.cause

end Sys2Proof.Machine
end

