-- ==== Sys2Proof/Machine/Operands.lean ====
section
/-! DEFINITION. Operand forms: character classes, digits, how a Word is assembled from a data line and how it is spelled on
output (30 R45, R49 to R53; 20 R33, R34). -/

namespace Sys2Proof.Machine

/-- `HEXDEC` (30 R49): the value of a byte of class HEXDIGIT; no value for any other byte. -/
def hexDec? (b : Byte) : Option Nibble :=
  if 0x30#8 ≤ b ∧ b ≤ 0x39#8 then some ((b - 0x30#8).setWidth 4)
  else if 0x41#8 ≤ b ∧ b ≤ 0x46#8 then some ((b - 0x41#8 + 10#8).setWidth 4)
  else if 0x61#8 ≤ b ∧ b ≤ 0x66#8 then some ((b - 0x61#8 + 10#8).setWidth 4)
  else none

/-- `HEXENC` (30 R50): the lower-case character of a digit. -/
def hexEnc (d : Nibble) : Byte :=
  if d ≤ 9#4 then 0x30#8 + d.setWidth 8 else 0x61#8 + d.setWidth 8 - 10#8

/-- The character classes of 30 R45; a HEXDIGIT carries its value. -/
inductive CharClass where
  | lf
  | mark
  | hexDigit (d : Nibble)
  | other
deriving DecidableEq, Repr

/-- Every byte falls in exactly one class (30 R45). -/
def classOf (b : Byte) : CharClass :=
  if b = Config.LF then .lf
  else if b = Config.MARKER then .mark
  else match hexDec? b with
    | some d => .hexDigit d
    | none => .other

/-- One digit shifted into the accumulator: `(ACC << 4) | zext_72(d)` (30 R51, 43 R96). -/
def pushDigit (acc : Word) (d : Nibble) : Word :=
  (acc <<< 4) ||| d.setWidth 72

/-- The Word of a sequence of digits, most significant first (30 R51). -/
def assemble (ds : List Nibble) : Word :=
  ds.foldl pushDigit 0

/-- The digit `y[71-4k : 68-4k]` of a Word (30 R52, 20 R33). -/
def digitAt (y : Word) (k : Nat) : Nibble :=
  y.extractLsb' (68 - 4 * k) 4

/-- The 18 characters that spell a Word (30 R52). -/
def spell (y : Word) : List Byte :=
  (List.range Config.NHEX).map fun k => hexEnc (digitAt y k)

/-- The values of the hexadecimal digits a line begins with, up to its first byte that is none. -/
def leadingDigits : List Byte → List Nibble
  | [] => []
  | b :: bs =>
    match hexDec? b with
    | some d => d :: leadingDigits bs
    | none => []

/-- The first offence of a data line, in stream order (30 R53): where it stands and of what kind. -/
inductive LineError where
  | emptyLine
  | nonHexAt (pos : Nat)
  | tooShort (digits : Nat)
  | tooLong
deriving DecidableEq, Repr

/-- The `ICAUSE` of each row of 30 R53. -/
def LineError.icause : LineError → ICause
  | .emptyLine => .length
  | .nonHexAt _ => .nonHex
  | .tooShort _ => .length
  | .tooLong => .length

/-- How many digits of the line were accepted into `ACC` before the offence (60 R113): at most 18. -/
def LineError.accepted : LineError → Nat
  | .emptyLine => 0
  | .nonHexAt pos => pos
  | .tooShort digits => digits
  | .tooLong => 18

/-- What is wrong with a data line, or `none` when it is exactly 18 hexadecimal digits (30 R48, R53). A bad byte after at
most 18 digits is met before the line's end, and a 19th digit before any later bad byte (60 R119). -/
def lineError (line : List Byte) : Option LineError :=
  let n := (leadingDigits line).length
  if line.length = 0 then some .emptyLine
  else if 18 < n then some .tooLong
  else if n < line.length then some (.nonHexAt n)
  else if n < 18 then some (.tooShort n)
  else none

end Sys2Proof.Machine
end

