-- ==== Sys2Proof/Machine/Ops.lean ====
section
/-! DEFINITION. The shared operations over State: the stream primitives, the open parameters, when an operation is enabled, raising
a fault and leaving it, emission with re-wrap. -/

namespace Sys2Proof.Machine

/-- `OutPut(b)` (00 section 5.2, 20 R30). -/
def State.outPut (s : State) (b : Byte) : State := { s with out := s.out ++ [b] }

/-- `OutPut` of several bytes in order. -/
def State.outPuts (s : State) (bs : List Byte) : State := { s with out := s.out ++ bs }

/-- `DiagPut` of several bytes in order (00 section 5.2, 20 R31). -/
def State.diagPuts (s : State) (bs : List Byte) : State := { s with diag := s.diag ++ bs }

/-- The host's pending actions with the front one taken (20 R29: each exactly once). -/
def State.withInput (s : State) (evs : List HostEvent) : State := { s with input := evs }

/-- A 72-bit result on the result wires (log 7). -/
def State.setY (s : State) (y : Word) : State := { s with wires := { s.wires with y := y } }

/-- A 64-bit result on the result wires (log 7). -/
def State.setW (s : State) (w : Low64) : State := { s with wires := { s.wires with w := w } }

/-- A held-out byte on the result wires (log 7). -/
def State.setT (s : State) (t : Byte) : State := { s with wires := { s.wires with t := t } }

/-- `UPSET(k)` (00 R6): past the end of a given list it is nominal (log 1). -/
def UpsetSource.draw (u : UpsetSource) (k : Nat) : Upset :=
  match u with
  | .free => Config.upset k
  | .listed es => es.getD k Upset.nominal

/-- `(e_f, e_s, e_n) = UPSET(WIDX)` (42 R83). -/
def State.upsetNow (s : State) : Upset := s.upset.draw s.widx

/-- The text of `DIAG_LINE` before it is made a line. -/
def DiagSource.bytes (d : DiagSource) : List Byte :=
  match d with
  | .free => Config.diagText
  | .text t => t

/-- A line made of a text: its bytes other than LF, then LF. These are exactly the values 00 R6 allows `DIAG_LINE`: not empty,
the last byte LF, no other byte LF (log 2). -/
def lineOf (t : List Byte) : List Byte := t.filter (· != Config.LF) ++ [Config.LF]

/-- `DIAG_LINE` (00 R6). -/
def State.diagLine (s : State) : List Byte := lineOf s.diagText.bytes

/-- A fault and its information (60 R113, R116). -/
inductive FaultInfo where
  | verifyMismatch (vinfo : BitVec 2)
  | inputFormat (icause : ICause)
deriving DecidableEq, Repr

/-- `raise F(info)` (60 R116, 42 R89): taking either fault. `ACC`, `NDIG`, `LSTATE`, `COL`, `MODE` and `OUT` keep their values. -/
def raise (f : FaultInfo) (s : State) : State :=
  match f with
  | .verifyMismatch v =>
    { s with
      status := .fault
      cause := 1
      vinfo := v
      diag := s.diag ++ s.diagLine
      widx := s.widx + 1 }
  | .inputFormat c =>
    { s with
      status := .fault
      cause := 2
      icause := icauseCode c }

/-- Leaving a fault: there is no return (60 R120), only reset, which gives every element the value of 10 R26 and keeps what is the
host's (10 R25, 70 R131; log 4). -/
def resetElements (modeIn : Option (BitVec 1)) (s : State) : State :=
  { s with
    mode := modeIn.getD 1
    col := 0
    lstate := .sol
    acc := 0
    ndig := 0
    widx := 0
    status := .run
    cause := 0
    vinfo := 0
    icause := 0 }

/-- A step is enabled exactly when `STATUS = RUN` (43 R93, R106), and an operation happens exactly where its selector holds (30
R55). -/
def whenSelected (s : State) (selected : Bool) (after : State) : Host.Outcome State Fault Refusal :=
  match s.status with
  | .run => if selected then .next after else .refused .notSelected
  | .done => .refused .runEnded
  | .fault => .refused .runEnded

/-- `EMIT(c)` (43 R102): one data character, and a line feed after every sixteenth. -/
def emit (c : Byte) (s : State) : State :=
  if s.col = 15 then { s.outPuts [c, Config.LF] with col := 0 }
  else { s.outPut c with col := s.col + 1 }

/-- `EMITWORD(y)` (43 R103): the 18 characters in order, each through `EMIT`. -/
def emitWord (y : Word) (s : State) : State :=
  (spell y).foldl (fun t c => emit c t) s

/-- The state after a computation that may raise: its result, or the fault taken in `s`, with the writes it had pending dropped
(00 section 5.2, 60 R116). -/
def orRaise (s : State) (r : Except FaultInfo State) : State :=
  match r with
  | .ok t => t
  | .error f => raise f s

end Sys2Proof.Machine
end

