-- ==== Sys2Proof/Machine/FastPath.lean ====
section
/-! DEFINITION. The fast path (spec/40_fast_path.md): the five masked-shift stages and their composition. A stage is a pure
function; executed by itself it puts its result on the result wires and changes nothing else (40 R58; logs 7, 8). -/

namespace Sys2Proof.Machine

/-- `SWAP1` (40 R61): exchange the two bits of every pair. -/
def swap1 (x : Word) : Word :=
  ((x &&& 0xaaaaaaaaaaaaaaaaaa#72) >>> 1) ||| ((x &&& 0x555555555555555555#72) <<< 1)

/-- `SWAP2` (40 R62): exchange the two bit pairs of every nibble. -/
def swap2 (x : Word) : Word :=
  ((x &&& 0xcccccccccccccccccc#72) >>> 2) ||| ((x &&& 0x333333333333333333#72) <<< 2)

/-- `SWAP4` (40 R63): exchange the two nibbles of every byte. -/
def swap4 (x : Word) : Word :=
  ((x &&& 0xf0f0f0f0f0f0f0f0f0#72) >>> 4) ||| ((x &&& 0x0f0f0f0f0f0f0f0f0f#72) <<< 4)

/-- `SWAPB` (40 R64): in every 24-bit group exchange the outer two bytes and hold the middle one. -/
def swapB (x : Word) : Word :=
  ((x &&& 0xff0000ff0000ff0000#72) >>> 16) ||| (x &&& 0x00ff0000ff0000ff00#72)
    ||| ((x &&& 0x0000ff0000ff0000ff#72) <<< 16)

/-- `SWAPL` (40 R65): exchange the outer two 24-bit groups and hold the middle one. -/
def swapL (x : Word) : Word :=
  ((x &&& 0xffffff000000000000#72) >>> 48) ||| (x &&& 0x000000ffffff000000#72)
    ||| ((x &&& 0x000000000000ffffff#72) <<< 48)

/-- `FAST` (40 R66). -/
def fast (x : Word) : Word := swapL (swapB (swap4 (swap2 (swap1 x))))

/-- SWAP1 by itself (40 R61). -/
def execSwap1 (x : Word) (s : State) : Host.Outcome State Fault Refusal := .next (s.setY (swap1 x))

/-- SWAP2 by itself (40 R62). -/
def execSwap2 (x : Word) (s : State) : Host.Outcome State Fault Refusal := .next (s.setY (swap2 x))

/-- SWAP4 by itself (40 R63). -/
def execSwap4 (x : Word) (s : State) : Host.Outcome State Fault Refusal := .next (s.setY (swap4 x))

/-- SWAPB by itself (40 R64). -/
def execSwapB (x : Word) (s : State) : Host.Outcome State Fault Refusal := .next (s.setY (swapB x))

/-- SWAPL by itself (40 R65). -/
def execSwapL (x : Word) (s : State) : Host.Outcome State Fault Refusal := .next (s.setY (swapL x))

/-- FAST by itself (40 R66). -/
def execFast (x : Word) (s : State) : Host.Outcome State Fault Refusal := .next (s.setY (fast x))

end Sys2Proof.Machine
end

