-- ==== Sys2Proof/Machine/Reference.lean ====
section
/-! DEFINITION. The two reference paths (spec/41_reference_paths.md). Every operation is a pure function (41 R70); executed by
itself it puts its result on the result wires (logs 7, 8). -/

namespace Sys2Proof.Machine

/-- `SPLIT` (41 R71), the held-out top byte `t = x[71:64]`. -/
def splitTop (x : Word) : Byte := x.extractLsb' 64 8

/-- `SPLIT` (41 R71), the low bits `w = x[63:0]`. -/
def splitLow (x : Word) : Low64 := x.extractLsb' 0 64

/-- `BSW8` (41 R72): exchange the two bytes of every 16-bit unit. -/
def bsw8 (w : Low64) : Low64 :=
  ((w &&& 0xff00ff00ff00ff00#64) >>> 8) ||| ((w &&& 0x00ff00ff00ff00ff#64) <<< 8)

/-- `BSW16` (41 R73): exchange the two halves of every 32-bit unit. -/
def bsw16 (w : Low64) : Low64 :=
  ((w &&& 0xffff0000ffff0000#64) >>> 16) ||| ((w &&& 0x0000ffff0000ffff#64) <<< 16)

/-- `BSW32` (41 R74): exchange the two 32-bit halves. -/
def bsw32 (w : Low64) : Low64 := (w >>> 32) ||| (w <<< 32)

/-- `JOIN` (41 R75): `{ w3, t }`. -/
def join (w : Low64) (t : Byte) : Word := w ++ t

/-- `SPECIAL` (41 R76, R77). -/
def special (x : Word) : Word :=
  swap1 (swap2 (swap4 (join (bsw32 (bsw16 (bsw8 (splitLow x)))) (splitTop x))))

/-- The pair of cell `k` with its bits exchanged, at its place in the result (41 R79, R80): with `i = 2k` and
`p = x[i+1:i]`, the value `zext_72({ p[0], p[1] }) << (70 - i)`. -/
def cell (k : Nat) (x : Word) : Word :=
  let p : BitVec 2 := x.extractLsb' (2 * k) 2
  let q : BitVec 2 := BitVec.ofBool (p.getLsbD 0) ++ BitVec.ofBool (p.getLsbD 1)
  q.setWidth 72 <<< (70 - 2 * k)

/-- The two result bits that cell `k` drives, `r[71-i : 70-i]` (41 R79). -/
def cellMask (k : Nat) : Word := (3#72) <<< (70 - 2 * k)

/-- `PCELL(k)` (41 R79): the two result bits of the cell are driven, the other 70 are not the cell's. -/
def pcell (k : Fin 36) (x r : Word) : Word := (r &&& ~~~ cellMask k) ||| cell k x

/-- `NORMAL` (41 R80): the 36 cells in the source's order. -/
def normal (x : Word) : Word :=
  (List.range 36).foldl (fun r k => r ||| cell k x) 0

/-- SPLIT by itself (41 R71). -/
def execSplit (x : Word) (s : State) : Host.Outcome State Fault Refusal :=
  .next ((s.setW (splitLow x)).setT (splitTop x))

/-- BSW8 by itself (41 R72). -/
def execBsw8 (w : Low64) (s : State) : Host.Outcome State Fault Refusal := .next (s.setW (bsw8 w))

/-- BSW16 by itself (41 R73). -/
def execBsw16 (w : Low64) (s : State) : Host.Outcome State Fault Refusal := .next (s.setW (bsw16 w))

/-- BSW32 by itself (41 R74). -/
def execBsw32 (w : Low64) (s : State) : Host.Outcome State Fault Refusal := .next (s.setW (bsw32 w))

/-- JOIN by itself (41 R75). -/
def execJoin (w : Low64) (t : Byte) (s : State) : Host.Outcome State Fault Refusal := .next (s.setY (join w t))

/-- SPECIAL by itself (41 R77). -/
def execSpecial (x : Word) (s : State) : Host.Outcome State Fault Refusal := .next (s.setY (special x))

/-- PCELL by itself (41 R79): its two result bits among the 72 result wires. -/
def execPcell (k : Fin 36) (x : Word) (s : State) : Host.Outcome State Fault Refusal :=
  .next (s.setY (pcell k x s.wires.y))

/-- NORMAL by itself (41 R80). -/
def execNormal (x : Word) (s : State) : Host.Outcome State Fault Refusal := .next (s.setY (normal x))

end Sys2Proof.Machine
end

