-- ==== Sys2Proof/Machine/Verifier.lean ====
section
/-! DEFINITION. The verifier (spec/42_verify.md): path values, the check, fast mode, and the Word operation's call into the
kernel. -/

namespace Sys2Proof.Machine

/-- `Y_F` (42 R83). -/
def pathF (s : State) (x : Word) : Word := fast x ^^^ s.upsetNow.f

/-- `Y_S` (42 R83). -/
def pathS (s : State) (x : Word) : Word := special x ^^^ s.upsetNow.s

/-- `Y_N` (42 R83). -/
def pathN (s : State) (x : Word) : Word := normal x ^^^ s.upsetNow.n

/-- `VERIFY` (42 R85): the fast path's value, or `VERIFY_MISMATCH` when a comparator says it differs. -/
def verify (yf ys yn : Word) : Except FaultInfo Word :=
  if mS yf ys = 1 ∨ mN yf yn = 1 then .error (.verifyMismatch (vinfoOf yf ys yn)) else .ok yf

/-- `PASS` (42 R86). -/
def pass (yf : Word) : Word := yf

/-- `REVWORD` (42 R87): reads `MODE`, `WIDX` and the open parameter `UPSET`. -/
def revword (s : State) (x : Word) : Except FaultInfo Word :=
  if s.mode = 1 then verify (pathF s x) (pathS s x) (pathN s x) else .ok (pass (pathF s x))

/-- A checked value on the result wires, or the fault taken. -/
def checkedY (s : State) (r : Except FaultInfo Word) : State :=
  match r with
  | .ok y => s.setY y
  | .error f => raise f s

/-- VERIFY by itself (42 R85). It may raise, so it is enabled only while `STATUS = RUN` (43 R106; log 8). -/
def execVerify (yf ys yn : Word) (s : State) : Host.Outcome State Fault Refusal :=
  whenSelected s true (checkedY s (verify yf ys yn))

/-- PASS by itself (42 R86). -/
def execPass (yf : Word) (s : State) : Host.Outcome State Fault Refusal := .next (s.setY (pass yf))

/-- REVWORD by itself (42 R87). It may raise, so it is enabled only while `STATUS = RUN` (43 R106; log 8). -/
def execRevword (x : Word) (s : State) : Host.Outcome State Fault Refusal :=
  whenSelected s true (checkedY s (revword s x))

end Sys2Proof.Machine
end

