-- ==== Sys2Proof/Machine/Formatter.lean ====
section
/-! DEFINITION. The stream formatter (spec/43_stream_formatter.md section 1): the three receive operations, the Word operation and the
emission. -/

namespace Sys2Proof.Machine

/-- `RXSOL` (43 R94): the first item of a line. -/
def rxSol (it : Item) (s : State) : State :=
  match it with
  | .eos => { s with status := .done }
  | .byte b =>
    match classOf b with
    | .mark => { s.outPut Config.MARKER with lstate := .hdr }
    | .hexDigit d => { s with acc := d.setWidth 72, ndig := 1, lstate := .data }
    | .lf => raise (.inputFormat .length) s
    | .other => raise (.inputFormat .nonHex) s

/-- `RXHDR` (43 R95): inside a header line. -/
def rxHdr (it : Item) (s : State) : State :=
  match it with
  | .eos => { s with status := .done }
  | .byte b => if b = Config.LF then { s.outPut Config.LF with lstate := .sol } else s.outPut b

/-- `WORD` (43 R101), with its fault still to be taken. -/
def wordOp (s : State) : Except FaultInfo State :=
  match revword s s.acc with
  | .error f => .error f
  | .ok y => .ok { emitWord y { s with widx := s.widx + 1 } with acc := 0, ndig := 0, lstate := .sol }

/-- `WORD` at the end of the stream (43 R98): `STATUS <- DONE` if it did not fault. -/
def lastWordOp (s : State) : Except FaultInfo State :=
  match wordOp s with
  | .error f => .error f
  | .ok t => .ok { t with status := .done }

/-- `RXDATA`, a digit (43 R96, R99): shifted in, or the 19th, which is a fault. -/
def rxDigit (d : Nibble) (s : State) : State :=
  if h : s.ndig.val < 18 then
    { s with acc := pushDigit s.acc d, ndig := ⟨s.ndig.val + 1, by omega⟩ }
  else raise (.inputFormat .length) s

/-- `RXDATA` (43 R96 to R100), by the class of the item. -/
def rxData (it : Item) (s : State) : State :=
  match it with
  | .eos => if s.ndig = 18 then orRaise s (lastWordOp s) else raise (.inputFormat .length) s
  | .byte b =>
    match classOf b with
    | .hexDigit d => rxDigit d s
    | .lf => if s.ndig = 18 then orRaise s (wordOp s) else raise (.inputFormat .length) s
    | .mark => raise (.inputFormat .nonHex) s
    | .other => raise (.inputFormat .nonHex) s

/-- RXSOL (43 R93, R94): selected by `LSTATE = SOL`. -/
def execRxsol (it : Item) (s : State) : Host.Outcome State Fault Refusal :=
  whenSelected s (s.lstate == .sol) (rxSol it s)

/-- RXHDR (43 R93, R95): selected by `LSTATE = HDR`. -/
def execRxhdr (it : Item) (s : State) : Host.Outcome State Fault Refusal :=
  whenSelected s (s.lstate == .hdr) (rxHdr it s)

/-- RXDATA (43 R93, R96 to R100): selected by `LSTATE = DATA`. -/
def execRxdata (it : Item) (s : State) : Host.Outcome State Fault Refusal :=
  whenSelected s (s.lstate == .data) (rxData it s)

/-- WORD by itself (43 R101): selected by a data line with 18 digits. -/
def execWord (s : State) : Host.Outcome State Fault Refusal :=
  whenSelected s (s.lstate == .data && s.ndig == 18) (orRaise s (wordOp s))

/-- EMIT by itself (43 R102). -/
def execEmit (c : Byte) (s : State) : Host.Outcome State Fault Refusal :=
  whenSelected s true (emit c s)

/-- EMITWORD by itself (43 R103). -/
def execEmitword (y : Word) (s : State) : Host.Outcome State Fault Refusal :=
  whenSelected s true (emitWord y s)

end Sys2Proof.Machine
end

