-- ==== Sys2Proof/WellFormed.lean ====
section
/-! DEFINITION. Which operations are legal as written: a format H line holds no LF (30 R47), a format D line is exactly 18
hexadecimal digits (30 R48). The other bounds are in the operand types. -/

namespace Sys2Proof

/-- A byte of class HEXDIGIT (30 R45). -/
def isHexDigit (b : Byte) : Bool := (Machine.hexDec? b).isSome

/-- The payload of a header line: any bytes except LF (30 R47). -/
def payloadOk (payload : List Byte) : Bool := payload.all (· != Config.LF)

/-- A data line: exactly 18 bytes, each a HEXDIGIT (30 R48). -/
def dataLineOk (line : List Byte) : Bool := line.length == Config.NHEX && line.all isHexDigit

/-- The legal operations (30 R46 to R48). -/
def Instr.wellFormed : Instr → Bool
  | .swap1 _ | .swap2 _ | .swap4 _ | .swapb _ | .swapl _ | .fast _ => true
  | .split _ | .bsw8 _ | .bsw16 _ | .bsw32 _ | .join _ _ | .special _ => true
  | .pcell _ _ | .normal _ => true
  | .verify _ _ _ | .pass _ | .revword _ => true
  | .rxsol _ | .rxhdr _ | .rxdata _ => true
  | .word | .emit _ | .emitword _ => true
  | .hdr payload _ => payloadOk payload
  | .data line _ => dataLineOk line
  | .reset _ => true

end Sys2Proof
end

