-- ==== Sys2Proof/Decode.lean ====
section
/-! DEFINITION. What selects an operation (30 R42 to R48, R55): an item in a line state, a line, the reset input. The decoder is
total on any bytes and rejects by name; the encoder follows it. -/

namespace Sys2Proof

/-- What the "encoding" column of spec/opcode_table.json says of a row: fixed wiring, called from another operation, an item in a
line state, a line, or the reset input. -/
inductive Encoding where
  | wired
  | called
  | item (l : LState) (it : Item)
  | line (bytes : List Byte) (tm : Term)
  | resetInput (modeIn : Option (BitVec 1))
deriving DecidableEq, Repr

/-- Why the decoder rejects. -/
inductive DecodeError where
  /-- The row has no encoding: fixed wiring, or called from another operation (30 R55). -/
  | noEncoding
  /-- `EOS` directly after an LF or at the very start begins no line (30 R43). -/
  | noLine
  /-- The bytes hold an LF, so they are more than one line (30 R42). -/
  | notOneLine
  /-- A malformed data line (30 R53). -/
  | badLine (e : Machine.LineError)
deriving DecidableEq, Repr

/-- Step dispatch (43 R93): the line state selects the receive operation. -/
def selectItem (l : LState) (it : Item) : Instr :=
  match l with
  | .sol => .rxsol it
  | .hdr => .rxhdr it
  | .data => .rxdata it

/-- The format of a line is decided by its first byte alone (30 R46); `EOS` with no byte before it begins no line (30 R43) and is
the item `RXSOL` takes. -/
def selectLine (bytes : List Byte) (tm : Term) : Instr :=
  match bytes with
  | [] =>
    match tm with
    | .eos => .rxsol .eos
    | .lf => .data [] .lf
  | b :: rest => if b = Config.MARKER then .hdr rest tm else .data (b :: rest) tm

/-- Decode one line (30 R46 to R48, R53). -/
def decodeLine (bytes : List Byte) (tm : Term) : Except DecodeError Instr :=
  if payloadOk bytes = false then .error .notOneLine
  else match bytes with
    | [] =>
      match tm with
      | .eos => .error .noLine
      | .lf => .error (.badLine .emptyLine)
    | b :: rest =>
      if b = Config.MARKER then .ok (.hdr rest tm)
      else match Machine.lineError (b :: rest) with
        | some e => .error (.badLine e)
        | none => .ok (.data (b :: rest) tm)

/-- The decoder. -/
def decode : Encoding → Except DecodeError Instr
  | .wired => .error .noEncoding
  | .called => .error .noEncoding
  | .item l it => .ok (selectItem l it)
  | .line bytes tm => decodeLine bytes tm
  | .resetInput modeIn => .ok (.reset modeIn)

/-- Cut the first line off a byte stream that ends with `EOS` (30 R42, R43): the line, its end, and the bytes after it. -/
def cutLine : List Byte → List Byte × Term × List Byte
  | [] => ([], .eos, [])
  | b :: bs =>
    if b = Config.LF then ([], .lf, bs)
    else
      let r := cutLine bs
      (b :: r.1, r.2.1, r.2.2)

/-- Decode the first line of a byte stream, and give the bytes after it. -/
def decodeBytes (bytes : List Byte) : Except DecodeError (Instr × List Byte) :=
  let r := cutLine bytes
  match decodeLine r.1 r.2.1 with
  | .ok i => .ok (i, r.2.2)
  | .error e => .error e

/-- The encoder: the "encoding" column of spec/opcode_table.json, row by row. -/
def encode : Instr → Encoding
  | .swap1 _ | .swap2 _ | .swap4 _ | .swapb _ | .swapl _ | .fast _ => .wired
  | .split _ | .bsw8 _ | .bsw16 _ | .bsw32 _ | .join _ _ | .special _ => .wired
  | .pcell _ _ | .normal _ => .wired
  | .verify _ _ _ | .pass _ | .revword _ => .wired
  | .rxsol it => .item .sol it
  | .rxhdr it => .item .hdr it
  | .rxdata it => .item .data it
  | .word | .emit _ | .emitword _ => .called
  | .hdr payload tm => .line (Config.MARKER :: payload) tm
  | .data line tm => .line line tm
  | .reset modeIn => .resetInput modeIn

/-- The bytes of a line-level operation on `IN` (30 R47, R48); the other rows are no bytes. -/
def encodeBytes : Instr → Option (List Byte)
  | .swap1 _ | .swap2 _ | .swap4 _ | .swapb _ | .swapl _ | .fast _ => none
  | .split _ | .bsw8 _ | .bsw16 _ | .bsw32 _ | .join _ _ | .special _ => none
  | .pcell _ _ | .normal _ => none
  | .verify _ _ _ | .pass _ | .revword _ => none
  | .rxsol _ | .rxhdr _ | .rxdata _ => none
  | .word | .emit _ | .emitword _ => none
  | .hdr payload tm => some (Config.MARKER :: payload ++ tm.bytes)
  | .data line tm => some (line ++ tm.bytes)
  | .reset _ => none

/-- The bytes of a table word, first byte first: bit 0 of `w` is the least significant bit of the first byte (log 12). -/
def tableBytes (nbits w : Nat) : List Byte :=
  (List.range ((nbits + 7) / 8)).map fun k => BitVec.ofNat 8 (w >>> (8 * k))

/-- The instruction the decoder reads from a table word: the bytes are a whole stream, so a line that ends with no LF ends with
`EOS` (30 R43; log 12). Bytes after the first line are no part of one instruction. -/
def decodeTableWord (nbits w : Nat) : Option Instr :=
  match decodeBytes (tableBytes nbits w) with
  | .ok (i, []) => some i
  | .ok (_, _ :: _) => none
  | .error _ => none

end Sys2Proof
end

