-- ==== Sys2Proof/Machine/LineLevel.lean ====
section
/-! DEFINITION. The line-level view (43 R107): one whole line at a time. -/

namespace Sys2Proof.Machine

/-- A line that ends with `EOS` ends the run (43 R95, R98, R107); one that ends with LF does not. -/
def endOfLine (tm : Term) (s : State) : State :=
  match tm with
  | .lf => s
  | .eos => { s with status := .done }

/-- `HDR` (43 R107): the line, byte for byte, its LF included if it has one. `LSTATE` is where the line's last item leaves it. -/
def hdrLine (payload : List Byte) (tm : Term) (s : State) : State :=
  let t := s.outPuts (Config.MARKER :: payload ++ tm.bytes)
  match tm with
  | .lf => { t with lstate := .sol }
  | .eos => { t with lstate := .hdr, status := .done }

/-- The digits of a data line accepted so far: `ACC`, `NDIG`, `LSTATE` as the receive operations leave them after the line's first
`n` digits, at most 18 (43 R94, R96). -/
def acceptDigits (ds : List Nibble) (n : Nat) (s : State) : State :=
  if n = 0 then s
  else { s with acc := assemble (ds.take n), ndig := Fin.ofNat 19 n, lstate := .data }

/-- `DATA` (43 R107): `INPUT_FORMAT` at the first offence, with the digits accepted before it (60 R113; log 11), or the Word operation
on the line's 18 digits. -/
def dataLine (line : List Byte) (tm : Term) (s : State) : State :=
  let ds := leadingDigits line
  match lineError line with
  | some e => raise (.inputFormat e.icause) (acceptDigits ds e.accepted s)
  | none =>
    let t := acceptDigits ds 18 s
    match wordOp t with
    | .ok u => endOfLine tm u
    | .error f => raise f t

/-- The bytes are a line of format D: no LF (30 R42), not a header line (30 R46), and a line at all (30 R43). -/
def isDataLine (line : List Byte) (tm : Term) : Bool :=
  payloadOk line && line.head? != some Config.MARKER && !(line.isEmpty && tm == .eos)

/-- HDR (43 R107): a line begins only at `LSTATE = SOL`. -/
def execHdr (payload : List Byte) (tm : Term) (s : State) : Host.Outcome State Fault Refusal :=
  whenSelected s (s.lstate == .sol && payloadOk payload) (hdrLine payload tm s)

/-- DATA (43 R107): a line begins only at `LSTATE = SOL`. -/
def execData (line : List Byte) (tm : Term) (s : State) : Host.Outcome State Fault Refusal :=
  whenSelected s (s.lstate == .sol && isDataLine line tm) (dataLine line tm s)

end Sys2Proof.Machine
end

