-- ==== Sys2Proof/Machine/System.lean ====
section
/-! DEFINITION. The one system operation, `RESET` (70 R129 to R131): enabled in every `STATUS`. -/

namespace Sys2Proof.Machine

/-- RESET (70 R129). -/
def execReset (modeIn : Option (BitVec 1)) (s : State) : Host.Outcome State Fault Refusal :=
  .next (resetElements modeIn s)

end Sys2Proof.Machine
end

