-- ==== Sys2Proof/Machine/Dispatch.lean ====
section
/-! DEFINITION. One arm per operation of the operation map (30 R55). -/

namespace Sys2Proof.Machine

def exec (i : Instr) (s : State) : Host.Outcome State Fault Refusal :=
  match i with
  | .swap1 x => Sys2Proof.Machine.execSwap1 x s
  | .swap2 x => Sys2Proof.Machine.execSwap2 x s
  | .swap4 x => Sys2Proof.Machine.execSwap4 x s
  | .swapb x => Sys2Proof.Machine.execSwapB x s
  | .swapl x => Sys2Proof.Machine.execSwapL x s
  | .fast x => Sys2Proof.Machine.execFast x s
  | .split x => Sys2Proof.Machine.execSplit x s
  | .bsw8 w => Sys2Proof.Machine.execBsw8 w s
  | .bsw16 w => Sys2Proof.Machine.execBsw16 w s
  | .bsw32 w => Sys2Proof.Machine.execBsw32 w s
  | .join w t => Sys2Proof.Machine.execJoin w t s
  | .special x => Sys2Proof.Machine.execSpecial x s
  | .pcell k x => Sys2Proof.Machine.execPcell k x s
  | .normal x => Sys2Proof.Machine.execNormal x s
  | .verify yf ys yn => Sys2Proof.Machine.execVerify yf ys yn s
  | .pass yf => Sys2Proof.Machine.execPass yf s
  | .revword x => Sys2Proof.Machine.execRevword x s
  | .rxsol it => Sys2Proof.Machine.execRxsol it s
  | .rxhdr it => Sys2Proof.Machine.execRxhdr it s
  | .rxdata it => Sys2Proof.Machine.execRxdata it s
  | .word => Sys2Proof.Machine.execWord s
  | .emit c => Sys2Proof.Machine.execEmit c s
  | .emitword y => Sys2Proof.Machine.execEmitword y s
  | .hdr payload tm => Sys2Proof.Machine.execHdr payload tm s
  | .data line tm => Sys2Proof.Machine.execData line tm s
  | .reset modeIn => Sys2Proof.Machine.execReset modeIn s

end Sys2Proof.Machine
end

