-- ==== Sys2Proof/Machine/Fetch.lean ====
section
/-! DEFINITION. What the block takes next: the host's oldest pending action, and the operation it selects (43 R93, 30 R46, 70
R129). -/

namespace Sys2Proof.Machine

/-- How an event presents itself to the decoder in a line state. -/
def HostEvent.encoding (ev : HostEvent) (l : LState) : Encoding :=
  match ev with
  | .item it => .item l it
  | .line bytes tm => .line bytes tm
  | .reset modeIn => .resetInput modeIn

/-- The operation an event selects. A malformed data line selects `DATA`, which raises the fault (30 R53). -/
def HostEvent.select (ev : HostEvent) (l : LState) : Instr :=
  match ev with
  | .item it => selectItem l it
  | .line bytes tm => selectLine bytes tm
  | .reset modeIn => .reset modeIn

/-- Why no step is taken when nothing is pending (60 R128, 43 R106; log 5). -/
def idleRefusal (s : State) : Refusal :=
  match s.status with
  | .run => .awaitingItem
  | .done => .runEnded
  | .fault => .runEnded

/-- The line that a table word is, as one pending line-level event (log 12). -/
def tableEvents (nbits w : Nat) : List HostEvent :=
  let r := cutLine (tableBytes nbits w)
  [.line r.1 r.2.1]

end Sys2Proof.Machine
end

