-- ==== Sys2Proof/Machine/Step.lean ====
section
/-! DEFINITION. One step: the host's oldest pending action is taken and the operation it selects is executed (43 R93). -/

namespace Sys2Proof.Machine

/-- The step. -/
def step (s : State) : Host.Outcome State Fault Refusal :=
  match s.input with
  | [] => .refused (idleRefusal s)
  | ev :: rest => exec (ev.select s.lstate) (s.withInput rest)

/-- The table word as the next line the block takes, at the start of a line in a running block (log 12). -/
def State.withFetchWord (s : State) (nbits w : Nat) : State :=
  { s with
    input := tableEvents nbits w ++ s.input
    lstate := .sol
    status := .run }

end Sys2Proof.Machine
end

