-- ==== Sys2Proof/Safety.lean ====
section
/-! DEFINITION. The terms claims are made in: the contract `REV72`, what a reachable state satisfies, what a finished run is, and
delivering a line's items one step at a time. -/

namespace Sys2Proof.Machine

/-- The contract `REV72` (40 R67), said of a pair of Words: bit `i` of the one is bit `71 - i` of the other. -/
abbrev IsReverse (x y : Word) : Prop := ∀ i : Nat, i < 72 → y.getLsbD (71 - i) = x.getLsbD i

/-- The number of set bits of a Word (40 R60, R68). -/
def setBits (x : Word) : Nat := (List.finRange 72).countP fun i => x.getLsbD i.val

/-- The three path results agree for the next Word: the draw of `UPSET` is the same on the three (42 R92 items 1 and 2). -/
abbrev State.upsetAgrees (s : State) : Prop := s.upsetNow.s = s.upsetNow.f ∧ s.upsetNow.n = s.upsetNow.f

/-- The invariants the spec states of its elements (10 R16, R21, R22, R23). -/
abbrev Inv (s : State) : Prop :=
  (s.lstate = .data → 1 ≤ s.ndig.val) ∧
  (s.lstate ≠ .data → s.ndig = 0) ∧
  s.acc.toNat < 16 ^ s.ndig.val ∧
  (s.cause ≠ 0 ↔ s.status = .fault) ∧
  s.cause ≠ 3 ∧
  (s.cause ≠ 1 → s.vinfo = 0) ∧
  (s.cause ≠ 2 → s.icause = 0) ∧
  s.icause ≠ 3

/-- How many Words have been emitted in the run: those begun, less the one a mismatch stopped (10 R17, 42 R89). -/
def State.emitted (s : State) : Nat := if s.cause = 1 then s.widx - 1 else s.widx

/-- `COL` against the number of Words emitted (43 R109). -/
abbrev ColInv (s : State) : Prop := s.col.toNat = (2 * s.emitted) % 16

/-- A run whose output may be used (60 R120, 70 R136). -/
abbrev State.usable (s : State) : Prop := s.status = .done

/-- The items of one line, in order (30 R42, R43). -/
def lineItems (bytes : List Byte) (tm : Term) : List HostEvent :=
  bytes.map (fun b => .item (.byte b)) ++ [.item tm.item]

/-- How many of the lines are data lines (43 R108). -/
def dataLines (lines : List (List Byte × Term)) : Nat := lines.countP fun p => dataLineOk p.1

/-- The total length of the other lines, their terminators included (43 R108: `h`). -/
def headerBytes (lines : List (List Byte × Term)) : Nat :=
  ((lines.filter fun p => !dataLineOk p.1).map fun p => (p.1 ++ p.2.bytes).length).sum

/-- At most `n` steps, as long as the run goes on and a step is taken (43 R93, R106). -/
def drain : Nat → State → State
  | 0, s => s
  | n + 1, s =>
    match s.status with
    | .done => s
    | .fault => s
    | .run =>
      match step s with
      | .next t => drain n t
      | .fault _ => s
      | .refused _ => s

/-- What no rule of the block reads: the histories of `OUT` and `DIAG` (10 R25) and the result wires (10 R18), taken out. -/
def State.unread (s : State) : State := { s with out := [], diag := [], wires := ⟨0, 0, 0⟩ }

end Sys2Proof.Machine
end

