-- ==== Sys2Proof/Certificates/Slice0/Obligations.lean ====
section
/-! DEFINITION. The statements about the model, for the provers. Each docstring names the rule of spec/ it formalises. An equation
of the form `exec i s = .next t` says at once that the operation completes, its result, and its frame: every element that the
right side does not name is as in `s`. -/

open Sys2Proof Sys2Proof.Machine

/-! ### Reset -/

/-- 10 R26: every element has its table value after RESET, in every state; the streams stay (10 R25). -/
def Obligations.ResetGivesTheTable : Prop :=
  ∀ (m : Option (BitVec 1)) (s : State), ∃ t, exec (.reset m) s = .next t ∧
    t.mode = (match m with | some v => v | none => 1) ∧ t.col = 0 ∧ t.lstate = .sol ∧ t.acc = 0 ∧ t.ndig = 0 ∧ t.widx = 0 ∧
    t.status = .run ∧ t.cause = 0 ∧ t.vinfo = 0 ∧ t.icause = 0 ∧ t.exit = 0 ∧
    t.out = s.out ∧ t.diag = s.diag ∧ t.input = s.input

/-- The rest of RESET's frame: the open parameters and the result wires stay. That is the model's choice (log 4). -/
def Obligations.ResetKeepsTheModelsOwnFields : Prop :=
  ∀ (m : Option (BitVec 1)) (s : State), ∃ t, exec (.reset m) s = .next t ∧
    t.upset = s.upset ∧ t.diagText = s.diagText ∧ t.wires = s.wires

/-- The reset state: the table of 10 R26 with the strap unconnected. The empty streams and the free parameters are the model's
(logs 1, 2, 3). -/
def Obligations.ResetStateIsTheTable : Prop :=
  State.reset.mode = 1 ∧ State.reset.col = 0 ∧ State.reset.lstate = .sol ∧ State.reset.acc = 0 ∧ State.reset.ndig = 0 ∧
  State.reset.widx = 0 ∧ State.reset.status = .run ∧ State.reset.cause = 0 ∧ State.reset.vinfo = 0 ∧ State.reset.icause = 0 ∧
  State.reset.exit = 0 ∧ State.reset.input = [] ∧ State.reset.out = [] ∧ State.reset.diag = []

/-- 43 R106, 70 R129: after the end only reset is taken, and it starts a new run; everything else is refused, so no state
changes. -/
def Obligations.OnlyResetLeavesAnEndedRun : Prop :=
  ∀ s : State, s.status ≠ .run →
    (s.input = [] → step s = .refused .runEnded) ∧
    (∀ it rest, s.input = .item it :: rest → step s = .refused .runEnded) ∧
    (∀ line tm rest, s.input = .line line tm :: rest → step s = .refused .runEnded) ∧
    (∀ m rest, s.input = .reset m :: rest → ∃ t, step s = .next t ∧ t.status = .run ∧ t.cause = 0 ∧ t.input = rest ∧
      t.out = s.out ∧ t.diag = s.diag)

/-- 10 R12, R21 to R23 and 70 R129: no operation but RESET writes `MODE` or clears `CAUSE`, `VINFO`, `ICAUSE`. -/
def Obligations.OnlyResetWritesModeOrClearsAFault : Prop :=
  ∀ (i : Instr) (s t : State), (∀ m, i ≠ .reset m) → exec i s = .next t →
    t.mode = s.mode ∧ (s.cause ≠ 0 → t.cause ≠ 0) ∧ (s.vinfo ≠ 0 → t.vinfo ≠ 0) ∧ (s.icause ≠ 0 → t.icause ≠ 0)

/-! ### The step -/

/-- 43 R93: on an item a step is enabled exactly when `STATUS = RUN`; it applies the one receive operation that `LSTATE` selects,
and it consumes exactly that item. -/
def Obligations.AStepIsEnabledWhileRunningAndConsumesOneItem : Prop :=
  ∀ (s : State) (it : Item) (rest : List HostEvent), s.input = .item it :: rest →
    (s.status = .run ↔ ∃ t, step s = .next t) ∧
    ∀ t, step s = .next t → t.input = rest ∧
      (s.lstate = .sol → exec (.rxsol it) (s.withInput rest) = .next t) ∧
      (s.lstate = .hdr → exec (.rxhdr it) (s.withInput rest) = .next t) ∧
      (s.lstate = .data → exec (.rxdata it) (s.withInput rest) = .next t)

/-- A step runs the decoded operation, on the state with the event taken: the item's receive operation by `LSTATE` (43 R93), the
line's operation by its first byte (30 R46), RESET; a malformed data line runs DATA, which raises its fault (30 R53). -/
def Obligations.StepRunsTheDecodedOperation : Prop :=
  ∀ (s : State) (ev : HostEvent) (rest : List HostEvent), s.input = ev :: rest →
    (∀ i, decode (ev.encoding s.lstate) = .ok i → step s = exec i (s.withInput rest)) ∧
    (∀ line tm e, ev = .line line tm → decode (ev.encoding s.lstate) = .error (.badLine e) →
      step s = exec (.data line tm) (s.withInput rest)) ∧
    (∀ it, ev = .item it → s.lstate = .sol → step s = exec (.rxsol it) (s.withInput rest)) ∧
    (∀ it, ev = .item it → s.lstate = .hdr → step s = exec (.rxhdr it) (s.withInput rest)) ∧
    (∀ it, ev = .item it → s.lstate = .data → step s = exec (.rxdata it) (s.withInput rest))

/-- 10 R25, 20 R30, R31: `OUT` and `DIAG` only grow, and nothing the block does depends on what stands in them: two states that
differ in nothing but those histories and the result wires take the same step and put the same bytes. -/
def Obligations.HistoriesAreNeverReadBack : Prop :=
  ∀ s s' : State, s.unread = s'.unread →
    match step s, step s' with
    | .next t, .next t' =>
      t.unread = t'.unread ∧ t.wires = s.wires ∧ t'.wires = s'.wires ∧
      ∃ o d, t.out = s.out ++ o ∧ t'.out = s'.out ++ o ∧ t.diag = s.diag ++ d ∧ t'.diag = s'.diag ++ d
    | .refused r, .refused r' => r = r'
    | _, _ => False

/-! ### Invariants -/

/-- 10 R16, R21 to R23 hold in the reset state. -/
def Obligations.InvariantHoldsAtReset : Prop := Inv State.reset ∧ ColInv State.reset

/-- 10 R16, R21, R22, R23: the stated invariants of `NDIG`, `ACC`, `CAUSE`, `VINFO`, `ICAUSE` are kept by every step. -/
def Obligations.EveryStepKeepsTheInvariant : Prop :=
  ∀ s t : State, Inv s → step s = .next t → Inv t

/-- 43 R109: `COL` is twice the number of Words emitted, modulo 16, whatever header lines came between; every step keeps it. -/
def Obligations.EveryStepKeepsColInStepWithTheWords : Prop :=
  ∀ s t : State, Inv s → ColInv s → step s = .next t → ColInv t

/-! ### The fast path -/

/-- 40 R61. That the result stands on the result wires is the model's (log 7), and that the operation runs in every `STATUS`
(log 8); so for every operation of the three paths below. -/
def Obligations.Swap1ExchangesTheBitsOfEveryPair : Prop :=
  ∀ (x : Word) (s : State), ∃ y : Word, exec (.swap1 x) s = .next { s with wires := { s.wires with y := y } } ∧
    y = ((x &&& 0xaaaaaaaaaaaaaaaaaa#72) >>> 1) ||| ((x &&& 0x555555555555555555#72) <<< 1) ∧
    0x555555555555555555#72 = ~~~ 0xaaaaaaaaaaaaaaaaaa#72 ∧
    (∀ i : Nat, i < 72 → (0xaaaaaaaaaaaaaaaaaa#72).getLsbD i = (i % 2 == 1)) ∧
    ∀ i : Nat, i < 72 → y.getLsbD (i ^^^ 1) = x.getLsbD i

/-- 40 R62. -/
def Obligations.Swap2ExchangesThePairsOfEveryNibble : Prop :=
  ∀ (x : Word) (s : State), ∃ y : Word, exec (.swap2 x) s = .next { s with wires := { s.wires with y := y } } ∧
    y = ((x &&& 0xcccccccccccccccccc#72) >>> 2) ||| ((x &&& 0x333333333333333333#72) <<< 2) ∧
    0x333333333333333333#72 = ~~~ 0xcccccccccccccccccc#72 ∧
    (∀ i : Nat, i < 72 → (0xcccccccccccccccccc#72).getLsbD i = ((i / 2) % 2 == 1)) ∧
    ∀ i : Nat, i < 72 → y.getLsbD (i ^^^ 2) = x.getLsbD i

/-- 40 R63. -/
def Obligations.Swap4ExchangesTheNibblesOfEveryByte : Prop :=
  ∀ (x : Word) (s : State), ∃ y : Word, exec (.swap4 x) s = .next { s with wires := { s.wires with y := y } } ∧
    y = ((x &&& 0xf0f0f0f0f0f0f0f0f0#72) >>> 4) ||| ((x &&& 0x0f0f0f0f0f0f0f0f0f#72) <<< 4) ∧
    0x0f0f0f0f0f0f0f0f0f#72 = ~~~ 0xf0f0f0f0f0f0f0f0f0#72 ∧
    (∀ i : Nat, i < 72 → (0xf0f0f0f0f0f0f0f0f0#72).getLsbD i = ((i / 4) % 2 == 1)) ∧
    ∀ i : Nat, i < 72 → y.getLsbD (i ^^^ 4) = x.getLsbD i

/-- 40 R64. -/
def Obligations.SwapBExchangesTheOuterBytesOfEveryGroup : Prop :=
  ∀ (x : Word) (s : State), ∃ y : Word, exec (.swapb x) s = .next { s with wires := { s.wires with y := y } } ∧
    y = ((x &&& 0xff0000ff0000ff0000#72) >>> 16) ||| (x &&& 0x00ff0000ff0000ff00#72)
      ||| ((x &&& 0x0000ff0000ff0000ff#72) <<< 16) ∧
    (∀ i : Nat, i < 72 →
      (0xff0000ff0000ff0000#72).getLsbD i = ((i / 8) % 3 == 2) ∧
      (0x00ff0000ff0000ff00#72).getLsbD i = ((i / 8) % 3 == 1) ∧
      (0x0000ff0000ff0000ff#72).getLsbD i = ((i / 8) % 3 == 0)) ∧
    ∀ i : Nat, i < 72 →
      ((i / 8) % 3 = 0 → y.getLsbD (i + 16) = x.getLsbD i) ∧
      ((i / 8) % 3 = 1 → y.getLsbD i = x.getLsbD i) ∧
      ((i / 8) % 3 = 2 → y.getLsbD (i - 16) = x.getLsbD i)

/-- 40 R65. -/
def Obligations.SwapLExchangesTheOuterGroups : Prop :=
  ∀ (x : Word) (s : State), ∃ y : Word, exec (.swapl x) s = .next { s with wires := { s.wires with y := y } } ∧
    y = ((x &&& 0xffffff000000000000#72) >>> 48) ||| (x &&& 0x000000ffffff000000#72)
      ||| ((x &&& 0x000000000000ffffff#72) <<< 48) ∧
    (∀ i : Nat, i < 72 →
      (0xffffff000000000000#72).getLsbD i = (i / 24 == 2) ∧
      (0x000000ffffff000000#72).getLsbD i = (i / 24 == 1) ∧
      (0x000000000000ffffff#72).getLsbD i = (i / 24 == 0)) ∧
    ∀ i : Nat, i < 72 →
      (i ≤ 23 → y.getLsbD (i + 48) = x.getLsbD i) ∧
      (24 ≤ i → i ≤ 47 → y.getLsbD i = x.getLsbD i) ∧
      (48 ≤ i → y.getLsbD (i - 48) = x.getLsbD i)

/-- 40 R66 and the contract 40 R67 it must meet: FAST is the five stages in order, and it reverses the order of the 72 bits. -/
def Obligations.FastReversesTheBits : Prop :=
  ∀ (x : Word) (s : State), ∃ y : Word, exec (.fast x) s = .next { s with wires := { s.wires with y := y } } ∧
    y = swapL (swapB (swap4 (swap2 (swap1 x)))) ∧ IsReverse x y

/-- 40 R60: every stage moves the 72 bits by a map of the positions that is its own inverse, so the stage applied twice gives its
operand back, it keeps the number of set bits, and zero and all-ones stay. -/
def Obligations.EveryStageIsAPermutationAndItsOwnInverse : Prop :=
  ∀ stage ∈ [swap1, swap2, swap4, swapB, swapL],
    (∃ p : Fin 72 → Fin 72, (∀ i, p (p i) = i) ∧
      ∀ (x : Word) (i : Fin 72), (stage x).getLsbD (p i).val = x.getLsbD i.val) ∧
    (∀ x : Word, stage (stage x) = x ∧ setBits (stage x) = setBits x) ∧
    stage 0 = 0 ∧ stage 0xffffffffffffffffff#72 = 0xffffffffffffffffff#72

/-- 40 R68, of FAST: involution; its fixed points; single bits; the number of set bits and the bitwise operations; and on the
hexadecimal spelling, the digits in reverse order, each with its four bits reversed. -/
def Obligations.LawsOfTheReversal : Prop :=
  (∀ x : Word, fast (fast x) = x) ∧
  (∀ x : Word, fast x = x ↔ ∀ i : Nat, i < 72 → x.getLsbD i = x.getLsbD (71 - i)) ∧
  fast 0 = 0 ∧ fast 0xffffffffffffffffff#72 = 0xffffffffffffffffff#72 ∧
  (∀ i : Nat, i < 72 → fast ((1#72) <<< i) = (1#72) <<< (71 - i)) ∧
  (∀ x : Word, setBits (fast x) = setBits x) ∧
  (∀ a b : Word, fast (a ||| b) = fast a ||| fast b ∧ fast (a &&& b) = fast a &&& fast b ∧ fast (a ^^^ b) = fast a ^^^ fast b) ∧
  (∀ (x : Word) (k j : Nat), k < 18 → j < 4 → (digitAt (fast x) k).getLsbD j = (digitAt x (17 - k)).getLsbD (3 - j))

/-! ### The reference paths -/

/-- 41 R71. -/
def Obligations.SplitHoldsOutTheTopByte : Prop :=
  ∀ (x : Word) (s : State), ∃ (t : Byte) (w : Low64),
    exec (.split x) s = .next { s with wires := { s.wires with w := w, t := t } } ∧
    (∀ i : Nat, i < 8 → t.getLsbD i = x.getLsbD (64 + i)) ∧ (∀ i : Nat, i < 64 → w.getLsbD i = x.getLsbD i)

/-- 41 R72. -/
def Obligations.Bsw8ExchangesTheBytesOfEvery16Bits : Prop :=
  ∀ (w : Low64) (s : State), ∃ v : Low64, exec (.bsw8 w) s = .next { s with wires := { s.wires with w := v } } ∧
    v = ((w &&& 0xff00ff00ff00ff00#64) >>> 8) ||| ((w &&& 0x00ff00ff00ff00ff#64) <<< 8) ∧
    ∀ i : Nat, i < 64 → v.getLsbD (i ^^^ 8) = w.getLsbD i

/-- 41 R73. -/
def Obligations.Bsw16ExchangesTheHalvesOfEvery32Bits : Prop :=
  ∀ (w : Low64) (s : State), ∃ v : Low64, exec (.bsw16 w) s = .next { s with wires := { s.wires with w := v } } ∧
    v = ((w &&& 0xffff0000ffff0000#64) >>> 16) ||| ((w &&& 0x0000ffff0000ffff#64) <<< 16) ∧
    ∀ i : Nat, i < 64 → v.getLsbD (i ^^^ 16) = w.getLsbD i

/-- 41 R74, with the order of the bytes after the three swaps. -/
def Obligations.Bsw32ExchangesTheHalvesAndEndsTheByteReversal : Prop :=
  ∀ (w : Low64) (s : State), ∃ v : Low64, exec (.bsw32 w) s = .next { s with wires := { s.wires with w := v } } ∧
    v = (w >>> 32) ||| (w <<< 32) ∧
    (∀ i : Nat, i < 64 → v.getLsbD (i ^^^ 32) = w.getLsbD i) ∧
    ∀ j n : Nat, j < 8 → n < 8 → (bsw32 (bsw16 (bsw8 w))).getLsbD (8 * (7 - j) + n) = w.getLsbD (8 * j + n)

/-- 41 R75, with the order of the nine bytes after it. -/
def Obligations.JoinPutsTheHeldOutByteAtTheBottom : Prop :=
  (∀ (w : Low64) (t : Byte) (s : State), ∃ v : Word, exec (.join w t) s = .next { s with wires := { s.wires with y := v } } ∧
    v = (w.setWidth 72 <<< 8) ||| t.setWidth 72 ∧
    (∀ i : Nat, i < 8 → v.getLsbD i = t.getLsbD i) ∧ (∀ i : Nat, i < 64 → v.getLsbD (8 + i) = w.getLsbD i)) ∧
  ∀ (x : Word) (b n : Nat), b < 9 → n < 8 →
    (join (bsw32 (bsw16 (bsw8 (splitLow x)))) (splitTop x)).getLsbD (8 * (8 - b) + n) = x.getLsbD (8 * b + n)

/-- 41 R77 (with the stages of R76) and 41 R78: SPECIAL is its chain and reverses the order of the bits. -/
def Obligations.SpecialReversesTheBits : Prop :=
  ∀ (x : Word) (s : State), ∃ y : Word, exec (.special x) s = .next { s with wires := { s.wires with y := y } } ∧
    y = swap1 (swap2 (swap4 (join (bsw32 (bsw16 (bsw8 (splitLow x)))) (splitTop x)))) ∧ IsReverse x y

/-- 41 R79: cell `k` drives two bits of the result from two bits of the operand, and no other bit. That the other 70 result wires
keep what they held is the model's (log 7). -/
def Obligations.PcellDrivesItsTwoBits : Prop :=
  ∀ (k : Fin 36) (x : Word) (s : State), ∃ r : Word,
    exec (.pcell k x) s = .next { s with wires := { s.wires with y := r } } ∧
    r.getLsbD (71 - 2 * k.val) = x.getLsbD (2 * k.val) ∧
    r.getLsbD (70 - 2 * k.val) = x.getLsbD (2 * k.val + 1) ∧
    ∀ j : Nat, j < 72 → j ≠ 71 - 2 * k.val → j ≠ 70 - 2 * k.val → r.getLsbD j = s.wires.y.getLsbD j

/-- 41 R80 and R81: NORMAL is the 36 cells, whatever the wires held before, and reverses the order of the bits. -/
def Obligations.NormalIsThe36CellsAndReversesTheBits : Prop :=
  ∀ (x : Word) (s : State), ∃ r : Word, exec (.normal x) s = .next { s with wires := { s.wires with y := r } } ∧
    IsReverse x r ∧ ∀ r0 : Word, (List.finRange 36).foldl (fun acc k => pcell k x acc) r0 = r

/-- 42 R91 for the paths: the three independently built paths compute one function, on all `2^72` Words. -/
def Obligations.TheThreePathsAgree : Prop :=
  ∀ x : Word, fast x = special x ∧ fast x = normal x

/-! ### The verifier -/

/-- 42 R85, R84 (the result on the model's wires, log 7): the fast value goes on when both references equal it; otherwise the fault is taken with one bit of `VINFO` for
each comparator (60 R116). -/
def Obligations.VerifyComparesBothReferences : Prop :=
  ∀ (yf ys yn : Word) (s : State), s.status = .run →
    (ys = yf → yn = yf → exec (.verify yf ys yn) s = .next { s with wires := { s.wires with y := yf } }) ∧
    (ys ≠ yf ∨ yn ≠ yf → ∃ v : BitVec 2, v.getLsbD 0 = (ys != yf) ∧ v.getLsbD 1 = (yn != yf) ∧
      exec (.verify yf ys yn) s = .next { s with
        status := .fault, cause := 1, vinfo := v, diag := s.diag ++ s.diagLine, widx := s.widx + 1 })

/-- 42 R86; the result stands on the model's wires (log 7). -/
def Obligations.PassGivesTheFastValue : Prop :=
  ∀ (yf : Word) (s : State), exec (.pass yf) s = .next { s with wires := { s.wires with y := yf } }

/-- 42 R86, R87 in fast mode (the result on the model's wires, log 7): the fast path's value as delivered, whatever the references' upsets are. -/
def Obligations.RevwordInFastModeDoesNotCheck : Prop :=
  ∀ (x : Word) (s : State), s.status = .run → s.mode = 0 →
    exec (.revword x) s = .next { s with wires := { s.wires with y := fast x ^^^ s.upsetNow.f } }

/-- 42 R92 items 1 to 3, of R87 in verified mode: a Word is passed exactly when the three upsets are equal, what is passed is the reversal
with the common upset on it, and otherwise the fault is taken with the two comparators' bits. -/
def Obligations.RevwordInVerifiedModeCatchesUnequalUpsets : Prop :=
  ∀ (x : Word) (s : State), s.status = .run → s.mode = 1 →
    (s.upsetAgrees → ∃ r : Word, IsReverse x r ∧
      exec (.revword x) s = .next { s with wires := { s.wires with y := r ^^^ s.upsetNow.f } }) ∧
    (¬ s.upsetAgrees → ∃ v : BitVec 2,
      v.getLsbD 0 = (s.upsetNow.s != s.upsetNow.f) ∧ v.getLsbD 1 = (s.upsetNow.n != s.upsetNow.f) ∧
      exec (.revword x) s = .next { s with
        status := .fault, cause := 1, vinfo := v, diag := s.diag ++ s.diagLine, widx := s.widx + 1 })

/-- 42 R91 and R86: with the nominal upset, or in fast mode, no step raises `VERIFY_MISMATCH`. -/
def Obligations.NoMismatchWithoutAnUpset : Prop :=
  ∀ s t : State, (s.upsetNow = Upset.nominal ∨ s.mode = 0) → s.cause ≠ 1 → step s = .next t → t.cause ≠ 1

/-! ### Faults -/

/-- 60 R116: what raising either fault writes; everything else keeps its value. -/
def Obligations.RaiseEntersTheFault : Prop :=
  ∀ s : State,
    (∀ v, raise (.verifyMismatch v) s = { s with
      status := .fault, cause := 1, vinfo := v, diag := s.diag ++ s.diagLine, widx := s.widx + 1 }) ∧
    raise (.inputFormat .nonHex) s = { s with status := .fault, cause := 2, icause := 1 } ∧
    raise (.inputFormat .length) s = { s with status := .fault, cause := 2, icause := 2 } ∧
    (∀ f, (raise f s).exit = (raise f s).cause)

/-- 60 R116 to R118 over every step: a step that ends the run with a fault puts nothing on `OUT`, and keeps `COL` and `MODE`; a
mismatch puts `DIAG_LINE` on `DIAG` once, an input fault nothing; an item's step keeps `ACC`, `NDIG`, `LSTATE` as well. -/
def Obligations.FaultingStepsPutNothingOnOut : Prop :=
  ∀ s t : State, s.status = .run → step s = .next t → t.status = .fault →
    t.out = s.out ∧ t.col = s.col ∧ t.mode = s.mode ∧
    ((t.cause = 1 ∧ t.diag = s.diag ++ s.diagLine ∧ t.widx = s.widx + 1 ∧ t.icause = s.icause) ∨
     (t.cause = 2 ∧ t.diag = s.diag ∧ t.widx = s.widx ∧ t.vinfo = s.vinfo ∧ (t.icause = 1 ∨ t.icause = 2))) ∧
    (∀ it rest, s.input = .item it :: rest → t.acc = s.acc ∧ t.ndig = s.ndig ∧ t.lstate = s.lstate)

/-- 00 R6: `DIAG_LINE` is not empty, ends in LF and holds no other LF. How it is made of the free text is the model's (log 2). -/
def Obligations.DiagLineIsOneLine : Prop :=
  ∀ s : State, ∃ body : List Byte, s.diagLine = body ++ [0x0A#8] ∧ (0x0A#8) ∉ body

/-! ### The formatter -/

/-- 43 R94, every class of item at the start of a line. -/
def Obligations.RxsolByClass : Prop :=
  ∀ s : State, s.status = .run → s.lstate = .sol →
    exec (.rxsol .eos) s = .next { s with status := .done } ∧
    exec (.rxsol (.byte 0x40#8)) s = .next { s with out := s.out ++ [0x40#8], lstate := .hdr } ∧
    (∀ b d, hexDec? b = some d →
      exec (.rxsol (.byte b)) s = .next { s with acc := d.setWidth 72, ndig := 1, lstate := .data }) ∧
    exec (.rxsol (.byte 0x0A#8)) s = .next { s with status := .fault, cause := 2, icause := 2 } ∧
    (∀ b, hexDec? b = none → b ≠ 0x40#8 → b ≠ 0x0A#8 →
      exec (.rxsol (.byte b)) s = .next { s with status := .fault, cause := 2, icause := 1 })

/-- 43 R95, every item inside a header line; `COL` is not touched (43 R104). -/
def Obligations.RxhdrCopiesVerbatim : Prop :=
  ∀ s : State, s.status = .run → s.lstate = .hdr →
    exec (.rxhdr .eos) s = .next { s with status := .done } ∧
    exec (.rxhdr (.byte 0x0A#8)) s = .next { s with out := s.out ++ [0x0A#8], lstate := .sol } ∧
    (∀ b, b ≠ 0x0A#8 → exec (.rxhdr (.byte b)) s = .next { s with out := s.out ++ [b] })

/-- 43 R96: a further digit is shifted in, and the shift loses nothing in a state that keeps 10 R16. -/
def Obligations.RxdataShiftsADigitIn : Prop :=
  ∀ (s : State) (b : Byte) (d : Nibble), s.status = .run → s.lstate = .data → s.ndig.val < 18 → hexDec? b = some d →
    ∃ t, exec (.rxdata (.byte b)) s = .next t ∧
      t = { s with acc := t.acc, ndig := t.ndig } ∧
      t.acc = (s.acc <<< 4) ||| d.setWidth 72 ∧ t.ndig.val = s.ndig.val + 1 ∧
      (s.acc.toNat < 16 ^ s.ndig.val → t.acc.toNat = 16 * s.acc.toNat + d.toNat)

/-- 43 R97: a line feed completes a line of 18 digits, which is the Word operation, after which, if it did not fault, the block is at
the start of a line and the run goes on; before 18 digits it is a fault. -/
def Obligations.RxdataLineFeedEndsTheLine : Prop :=
  ∀ s : State, s.status = .run → s.lstate = .data →
    (s.ndig = 18 → ∃ t, exec .word s = .next t ∧ exec (.rxdata (.byte 0x0A#8)) s = .next t ∧
      (t.status ≠ .fault → t.lstate = .sol ∧ t.status = .run)) ∧
    (s.ndig ≠ 18 → exec (.rxdata (.byte 0x0A#8)) s = .next { s with status := .fault, cause := 2, icause := 2 })

/-- 43 R98: the end of the stream completes a line of 18 digits and, if it did not fault, the run. -/
def Obligations.RxdataEndOfStreamEndsTheLine : Prop :=
  ∀ s : State, s.status = .run → s.lstate = .data →
    (s.ndig = 18 → ∃ t, exec .word s = .next t ∧
      (t.status = .fault → exec (.rxdata .eos) s = .next t) ∧
      (t.status ≠ .fault → exec (.rxdata .eos) s = .next { t with status := .done })) ∧
    (s.ndig ≠ 18 → exec (.rxdata .eos) s = .next { s with status := .fault, cause := 2, icause := 2 })

/-- 43 R99: a 19th digit is a fault; nothing is shifted in and nothing is truncated. -/
def Obligations.RxdataRejectsA19thDigit : Prop :=
  ∀ (s : State) (b : Byte) (d : Nibble), s.status = .run → s.lstate = .data → s.ndig = 18 → hexDec? b = some d →
    exec (.rxdata (.byte b)) s = .next { s with status := .fault, cause := 2, icause := 2 }

/-- 43 R100: any other byte inside a data line is a fault whatever `NDIG` is, `@` included. -/
def Obligations.RxdataRejectsAnyOtherByte : Prop :=
  ∀ (s : State) (b : Byte), s.status = .run → s.lstate = .data → hexDec? b = none → b ≠ 0x0A#8 →
    exec (.rxdata (.byte b)) s = .next { s with status := .fault, cause := 2, icause := 1 }

/-- 43 R101: a checked Word is emitted and the line's registers cleared; an unchecked mismatch leaves `ACC`, `NDIG`, `LSTATE`, `COL`
and `OUT` (42 R89), and `VINFO` has bit 0 for the special path and bit 1 for the normal path (42 R84, R85, 10 R22). `y` is the fast
path's value as delivered (42 R83, R88). -/
def Obligations.WordEmitsTheCheckedWordOrNothing : Prop :=
  ∀ s : State, s.status = .run → s.lstate = .data → s.ndig = 18 →
    (s.mode = 0 ∨ s.upsetAgrees → ∃ u, exec (.emitword (fast s.acc ^^^ s.upsetNow.f)) { s with widx := s.widx + 1 } = .next u ∧
      exec .word s = .next { u with acc := 0, ndig := 0, lstate := .sol }) ∧
    (s.mode = 1 → ¬ s.upsetAgrees → ∃ v : BitVec 2,
      v.getLsbD 0 = (s.upsetNow.s != s.upsetNow.f) ∧ v.getLsbD 1 = (s.upsetNow.n != s.upsetNow.f) ∧
      exec .word s = .next { s with
        status := .fault, cause := 1, vinfo := v, diag := s.diag ++ s.diagLine, widx := s.widx + 1 })

/-- 43 R102. -/
def Obligations.EmitPutsALineFeedAfterEvery16th : Prop :=
  ∀ (c : Byte) (s : State), s.status = .run →
    (s.col ≠ 15 → exec (.emit c) s = .next { s with out := s.out ++ [c], col := s.col + 1 }) ∧
    (s.col = 15 → exec (.emit c) s = .next { s with out := s.out ++ [c, 0x0A#8], col := 0 })

/-- 43 R103, with the positions of the inserted line feeds of 43 R109: the 18 characters of the Word in order, a line feed after
digit number `15 - COL` when there is one, and a second only from `COL` 14 (or 15). -/
def Obligations.EmitwordSpellsAndWraps : Prop :=
  ∀ (y : Word) (s : State), s.status = .run →
    ∃ put : List Byte, exec (.emitword y) s = .next { s with out := s.out ++ put, col := s.col + 2 } ∧
      put.filter (· != 0x0A#8) = spell y ∧
      (s.col.toNat < 14 → put = (spell y).take (16 - s.col.toNat) ++ [0x0A#8] ++ (spell y).drop (16 - s.col.toNat)) ∧
      (14 ≤ s.col.toNat → put = (spell y).take (16 - s.col.toNat) ++ [0x0A#8] ++
        ((spell y).drop (16 - s.col.toNat)).take 16 ++ [0x0A#8] ++ (spell y).drop (32 - s.col.toNat))

/-- 43 R104: header lines, at the item level and at the line level, never move `COL`. -/
def Obligations.HeaderLinesLeaveTheCounter : Prop :=
  ∀ s t : State,
    (∀ it, exec (.rxhdr it) s = .next t → t.col = s.col) ∧
    (exec (.rxsol (.byte 0x40#8)) s = .next t → t.col = s.col) ∧
    (∀ payload tm, exec (.hdr payload tm) s = .next t → t.col = s.col)

/-- 43 R111 (and R105): the end of the stream at the start of a line ends the run; from reset nothing is put anywhere. -/
def Obligations.EmptyInputGivesEmptyOutput : Prop :=
  ∃ t, step (State.reset.withInput [.item .eos]) = .next t ∧
    t.out = [] ∧ t.diag = [] ∧ t.status = .done ∧ t.exit = 0 ∧ t.col = 0

/-! ### The line level -/

/-- 43 R107, 30 R47: a header line is copied byte for byte with its terminator if it has one. `LSTATE` after it is the item
level's (log 11). -/
def Obligations.HdrCopiesTheLine : Prop :=
  ∀ (payload : List Byte) (s : State), s.status = .run → s.lstate = .sol → (0x0A#8) ∉ payload →
    exec (.hdr payload .lf) s = .next { s with out := s.out ++ (0x40#8 :: payload ++ [0x0A#8]) } ∧
    exec (.hdr payload .eos) s = .next { s with out := s.out ++ (0x40#8 :: payload), lstate := .hdr, status := .done }

/-- 43 R107, 30 R48, R51: a data line of exactly 18 digits is the Word operation on its Word; with `EOS` for its end it also ends the run
unless it faulted. That a line taken at once whose Word is stopped by a mismatch leaves `ACC`, `NDIG` and `LSTATE` as its items taken one
by one do (42 R89, 60 R113) is log 11. -/
def Obligations.DataProcessesALegalLine : Prop :=
  ∀ (line : List Byte) (tm : Term) (s : State), s.status = .run → s.lstate = .sol → dataLineOk line = true →
    ∃ t, exec .word { s with acc := assemble (leadingDigits line), ndig := 18, lstate := .data } = .next t ∧
      (t.status = .fault → exec (.data line tm) s = .next t) ∧
      (t.status ≠ .fault → tm = .lf → exec (.data line tm) s = .next t) ∧
      (t.status ≠ .fault → tm = .eos → exec (.data line tm) s = .next { t with status := .done })

/-- 30 R53: a malformed data line raises `INPUT_FORMAT` with the `ICAUSE` of its first offence, and nothing is put anywhere. A
malformed line is one of at most 17 leading digits then its end (LENGTH), or a bad byte after at most 18 digits (NONHEX), or 19
digits (LENGTH). -/
def Obligations.DataRejectsAMalformedLine : Prop :=
  ∀ (line : List Byte) (tm : Term) (s : State), s.status = .run → s.lstate = .sol → isDataLine line tm = true →
    dataLineOk line = false →
    ∃ t, exec (.data line tm) s = .next t ∧ t.status = .fault ∧ t.cause = 2 ∧ t.out = s.out ∧ t.diag = s.diag ∧
      t.col = s.col ∧ t.vinfo = s.vinfo ∧ t.widx = s.widx ∧ t.mode = s.mode ∧
      (t.icause = 1 ↔ ∃ pre b post, line = pre ++ b :: post ∧ pre.length ≤ 18 ∧ pre.all isHexDigit = true ∧ isHexDigit b = false) ∧
      (t.icause = 1 ∨ t.icause = 2)

/-- 43 R107: the line-level view agrees with the item-level rules. From any running state at the start of a line, receiving the
line's items one step at a time ends in the state the line-level operation gives at once, in every element but what is left of the
input. 43 R107 does not list `ACC`, `NDIG` and `LSTATE` among these elements; that they agree too is log 11. -/
def Obligations.LineLevelAgreesWithItemLevel : Prop :=
  ∀ (s : State) (line : List Byte) (tm : Term), s.status = .run → s.lstate = .sol → (0x0A#8) ∉ line →
    ∃ t, exec (selectLine line tm) s = .next t ∧
      (drain (line.length + 1) (s.withInput (lineItems line tm))).withInput [] = t.withInput []

/-- 43 R108 to R110 for any sequence of legal lines, header lines between data lines and a last line ended by `EOS` included, from
any column: with the nominal `UPSET` every header line is copied verbatim, every data line's Word comes out reversed with its 18 digits
re-wrapped, in the order of the lines; nothing is lost or put twice but one line feed for every sixteenth data character; `COL` and
`WIDX` count the Words; and nothing else changes, but that `EOS` ends the run. `LSTATE` after a header line ended by `EOS` is log 11. -/
def Obligations.DataLinesComeOutReversedInOrderAndRewrapped : Prop :=
  ∀ (lines : List (List Byte × Term)) (s : State), Inv s → s.status = .run → s.lstate = .sol →
    (∀ k, s.upset.draw k = Upset.nominal) →
    (∀ p ∈ lines, ∃ i, decodeLine p.1 p.2 = .ok i) → (∀ p ∈ lines.dropLast, p.2 = .lf) →
    ∃ puts : List (List Byte),
      List.Forall₂ (fun p put =>
        if dataLineOk p.1 then put.filter (· != 0x0A#8) = spell (fast (assemble (leadingDigits p.1)))
        else put = p.1 ++ p.2.bytes) lines puts ∧
      puts.flatten.length = 18 * dataLines lines + (s.col.toNat + 18 * dataLines lines) / 16 + headerBytes lines ∧
      drain lines.length (s.withInput (lines.map fun p => .line p.1 p.2)) = { s with
        input := []
        out := s.out ++ puts.flatten
        col := s.col + BitVec.ofNat 4 (2 * dataLines lines)
        widx := s.widx + dataLines lines
        status := if lines.any (fun p => p.2 == .eos) then .done else .run
        lstate := if lines.any (fun p => p.2 == .eos && !dataLineOk p.1) then .hdr else .sol }

/-! ### Encoding -/

/-- 30 R45: every byte falls in exactly one class, by its value. -/
def Obligations.EveryByteHasOneClass : Prop :=
  ∀ b : Byte,
    (classOf b = .lf ↔ b = 0x0A#8) ∧ (classOf b = .mark ↔ b = 0x40#8) ∧
    ((∃ d, classOf b = .hexDigit d) ↔
      (0x30 ≤ b.toNat ∧ b.toNat ≤ 0x39) ∨ (0x41 ≤ b.toNat ∧ b.toNat ≤ 0x46) ∨ (0x61 ≤ b.toNat ∧ b.toNat ≤ 0x66))

/-- 30 R49, R50: digit values, and no value for any other byte; lower-case spelling; decoding a spelling gives the digit back, and
spelling a digit gives its byte back unless that was an upper-case letter. -/
def Obligations.HexDigitsDecodeAndEncode : Prop :=
  (∀ b : Byte, 0x30 ≤ b.toNat → b.toNat ≤ 0x39 → ∃ d, hexDec? b = some d ∧ d.toNat = b.toNat - 0x30) ∧
  (∀ b : Byte, 0x41 ≤ b.toNat → b.toNat ≤ 0x46 → ∃ d, hexDec? b = some d ∧ d.toNat = b.toNat - 0x41 + 10) ∧
  (∀ b : Byte, 0x61 ≤ b.toNat → b.toNat ≤ 0x66 → ∃ d, hexDec? b = some d ∧ d.toNat = b.toNat - 0x61 + 10) ∧
  (∀ b : Byte, ¬ (0x30 ≤ b.toNat ∧ b.toNat ≤ 0x39) → ¬ (0x41 ≤ b.toNat ∧ b.toNat ≤ 0x46) →
    ¬ (0x61 ≤ b.toNat ∧ b.toNat ≤ 0x66) → hexDec? b = none) ∧
  (∀ d : Nibble, d.toNat ≤ 9 → (hexEnc d).toNat = 0x30 + d.toNat) ∧
  (∀ d : Nibble, 10 ≤ d.toNat → (hexEnc d).toNat = 0x61 + d.toNat - 10) ∧
  (∀ d : Nibble, hexDec? (hexEnc d) = some d) ∧
  (∀ (b : Byte) (d : Nibble), hexDec? b = some d → (hexEnc d = b ↔ ¬ (0x41 ≤ b.toNat ∧ b.toNat ≤ 0x46)))

/-- 30 R52 (with 20 R33, R34): a Word's spelling is its 18 digits most significant first, and assembling the digits of a spelling
(30 R51) gives the Word back. -/
def Obligations.SpellingAWordAndAssemblingItAgree : Prop :=
  ∀ y : Word, (spell y).length = 18 ∧
    (∀ k : Nat, k < 18 → ∃ d : Nibble, (spell y)[k]? = some (hexEnc d) ∧
      ∀ j : Nat, j < 4 → d.getLsbD j = y.getLsbD (68 - 4 * k + j)) ∧
    assemble (leadingDigits (spell y)) = y

/-- 30 R51: the Word of 18 digits is their number to base 16, most significant first. -/
def Obligations.AssembledWordIsTheNumber : Prop :=
  ∀ ds : List Nibble, ds.length ≤ 18 → (assemble ds).toNat = ds.foldl (fun n d => 16 * n + d.toNat) 0

/-- 30 R42, R46 to R48, R55: decoding the encoding of any well-formed operation that has one gives the operation back, and so does decoding
its bytes at the front of a stream, with the rest of the stream left over. -/
def Obligations.DecodeOfEncodeIsTheOperation : Prop :=
  ∀ i : Instr, i.wellFormed = true →
    (encode i ≠ .wired → encode i ≠ .called → decode (encode i) = .ok i) ∧
    (∀ bytes rest, encodeBytes i = some bytes → (∃ line, encode i = .line line .lf) →
      decodeBytes (bytes ++ rest) = .ok (i, rest)) ∧
    (∀ bytes, encodeBytes i = some bytes → (∃ line, encode i = .line line .eos) → decodeBytes bytes = .ok (i, []))

/-- 30 R46, R48, R53, R54: nothing but the encoding of a well-formed operation decodes to it: the decoder accepts no line that is
not legal, and a legal line has one meaning. -/
def Obligations.OnlyLegalLinesDecode : Prop :=
  ∀ (e : Encoding) (i : Instr), decode e = .ok i → i.wellFormed = true ∧ encode i = e

/-- 30 R46 to R48 on a few streams written out byte by byte: a header line with a payload, the shortest header line, and the Word 1. -/
def Obligations.WrittenOutLinesDecode : Prop :=
  decodeBytes [0x40#8, 0x78#8, 0x0A#8] = .ok (.hdr [0x78#8] .lf, []) ∧
  decodeBytes [0x40#8] = .ok (.hdr [] .eos, []) ∧
  decodeBytes (List.replicate 17 0x30#8 ++ [0x31#8, 0x0A#8, 0x40#8]) =
    .ok (.data (List.replicate 17 0x30#8 ++ [0x31#8]) .lf, [0x40#8])
end

