-- ==== Sys2Proof/Laws/Bits.lean ====
section
/-! SUPPORT. Where each bit of a stage's result comes from, for every stage of the three paths (40 R61 to R65, 41 R71 to R79). -/

namespace Sys2Proof.Machine

theorem swap1_bit (x : Word) (j : Nat) (h : j < 72) : (swap1 x).getLsbD j = x.getLsbD (j ^^^ 1) := by
  unfold swap1
  interval_cases j <;> simp

theorem swap2_bit (x : Word) (j : Nat) (h : j < 72) : (swap2 x).getLsbD j = x.getLsbD (j ^^^ 2) := by
  unfold swap2
  interval_cases j <;> simp

theorem swap4_bit (x : Word) (j : Nat) (h : j < 72) : (swap4 x).getLsbD j = x.getLsbD (j ^^^ 4) := by
  unfold swap4
  interval_cases j <;> simp

theorem swapB_bit (x : Word) (j : Nat) (h : j < 72) :
    (swapB x).getLsbD j = x.getLsbD (j + 16 - 16 * ((j / 8) % 3)) := by
  unfold swapB
  interval_cases j <;> simp

theorem swapL_bit (x : Word) (j : Nat) (h : j < 72) : (swapL x).getLsbD j = x.getLsbD (j + 48 - 48 * (j / 24)) := by
  unfold swapL
  interval_cases j <;> simp

theorem bsw8_bit (w : Low64) (j : Nat) (h : j < 64) : (bsw8 w).getLsbD j = w.getLsbD (j ^^^ 8) := by
  unfold bsw8
  interval_cases j <;> simp

theorem bsw16_bit (w : Low64) (j : Nat) (h : j < 64) : (bsw16 w).getLsbD j = w.getLsbD (j ^^^ 16) := by
  unfold bsw16
  interval_cases j <;> simp

theorem bsw32_bit (w : Low64) (j : Nat) (h : j < 64) : (bsw32 w).getLsbD j = w.getLsbD (j ^^^ 32) := by
  unfold bsw32
  interval_cases j <;> simp

theorem join_bit (w : Low64) (t : Byte) (j : Nat) :
    (join w t).getLsbD j = if j < 8 then t.getLsbD j else w.getLsbD (j - 8) := by
  unfold join
  rw [BitVec.getLsbD_append]

theorem splitTop_bit (x : Word) (j : Nat) (h : j < 8) : (splitTop x).getLsbD j = x.getLsbD (64 + j) := by
  simp [splitTop, h]

theorem splitLow_bit (x : Word) (j : Nat) (h : j < 64) : (splitLow x).getLsbD j = x.getLsbD j := by
  simp [splitLow, h]

/-- The two bits of a cell's pair at their places, and no other bit. -/
theorem cell_bit (k : Nat) (hk : k < 36) (x : Word) (j : Nat) (hj : j < 72) :
    (cell k x).getLsbD j =
      if j = 71 - 2 * k then x.getLsbD (2 * k) else if j = 70 - 2 * k then x.getLsbD (2 * k + 1) else false := by
  have q : ∀ (b c : Bool) (n : Nat), (BitVec.setWidth 72 (BitVec.ofBool b ++ BitVec.ofBool c)).getLsbD n =
      (if n = 0 then c else if n = 1 then b else false) := by
    intro b c n
    by_cases hn : n < 2
    · interval_cases n <;> cases b <;> cases c <;> rfl
    · rw [if_neg (by omega), if_neg (by omega), BitVec.getLsbD_setWidth, BitVec.getLsbD_of_ge _ n (by omega)]
      simp
  unfold cell
  simp only [BitVec.getLsbD_shiftLeft, q]
  by_cases h1 : j = 71 - 2 * k
  · subst h1
    rw [if_pos rfl, if_neg (by omega), if_pos (by omega)]
    simp
    omega
  · rw [if_neg h1]
    by_cases h2 : j = 70 - 2 * k
    · subst h2
      rw [if_pos rfl, if_pos (by omega)]
      simp
      omega
    · rw [if_neg h2]
      by_cases h3 : j < 70 - 2 * k
      · simp [h3]
      · rw [if_neg (by omega), if_neg (by omega)]
        simp

end Sys2Proof.Machine
end

