-- ==== Sys2Proof/Laws/Operands.lean ====
section
/-! SUPPORT. The small facts about characters, digits and lines that the formatter's proofs cite. -/

namespace Sys2Proof.Machine

theorem hexDec?_lf : hexDec? Config.LF = none := by decide
theorem hexDec?_marker : hexDec? Config.MARKER = none := by decide

theorem classOf_lf : classOf Config.LF = .lf := by decide
theorem classOf_marker : classOf Config.MARKER = .mark := by decide

theorem classOf_of_digit {b : Byte} {d : Nibble} (h : hexDec? b = some d) : classOf b = .hexDigit d := by
  have h1 : b ≠ Config.LF := by rintro rfl; simp [hexDec?_lf] at h
  have h2 : b ≠ Config.MARKER := by rintro rfl; simp [hexDec?_marker] at h
  simp only [classOf, if_neg h1, if_neg h2, h]

theorem classOf_of_other {b : Byte} (h : hexDec? b = none) (h1 : b ≠ Config.MARKER) (h2 : b ≠ Config.LF) :
    classOf b = .other := by
  simp only [classOf, if_neg h1, if_neg h2, h]

/-- A digit shifted in is the number times 16 plus the digit, while the accumulator has room (10 R16, 43 R96). -/
theorem pushDigit_toNat {acc : Word} {n : Nat} (d : Nibble) (h : acc.toNat < 16 ^ n) (hn : n < 18) :
    (pushDigit acc d).toNat = 16 * acc.toNat + d.toNat := by
  have hlt : acc.toNat < 2 ^ 68 :=
    Nat.lt_of_lt_of_le h (by
      calc 16 ^ n ≤ 16 ^ 17 := Nat.pow_le_pow_right (by decide) (by omega)
        _ = 2 ^ 68 := by decide)
  have hd : d.toNat < 2 ^ 4 := d.isLt
  unfold pushDigit
  rw [BitVec.toNat_or, BitVec.toNat_shiftLeft, BitVec.toNat_setWidth, Nat.shiftLeft_eq,
    Nat.mod_eq_of_lt (by omega), Nat.mod_eq_of_lt (by omega), Nat.mul_comm, ← Nat.two_pow_add_eq_or_of_lt hd]

/-- After one more digit the accumulator is below the next power (10 R16). -/
theorem pushDigit_lt {acc : Word} {n : Nat} (d : Nibble) (h : acc.toNat < 16 ^ n) (hn : n < 18) :
    (pushDigit acc d).toNat < 16 ^ (n + 1) := by
  rw [pushDigit_toNat d h hn, Nat.pow_succ]
  have hd : d.toNat < 16 := d.isLt
  omega

theorem foldl_pushDigit_lt (ds : List Nibble) (acc : Word) (n : Nat) (h : acc.toNat < 16 ^ n) (hn : n + ds.length ≤ 18) :
    (ds.foldl pushDigit acc).toNat < 16 ^ (n + ds.length) := by
  induction ds generalizing acc n with
  | nil => simpa using h
  | cons d ds ih =>
    rw [List.length_cons] at hn
    have := ih (pushDigit acc d) (n + 1) (pushDigit_lt d h (by omega)) (by omega)
    rwa [List.foldl_cons, List.length_cons, Nat.add_comm ds.length 1, ← Nat.add_assoc]

theorem assemble_lt (ds : List Nibble) (h : ds.length ≤ 18) : (assemble ds).toNat < 16 ^ ds.length := by
  have := foldl_pushDigit_lt ds 0 0 (by decide) (by omega)
  rwa [Nat.zero_add] at this

theorem leadingDigits_le (line : List Byte) : (leadingDigits line).length ≤ line.length := by
  induction line with
  | nil => simp [leadingDigits]
  | cons b bs ih =>
    unfold leadingDigits
    split
    · simpa using ih
    · simp

/-- A line is all digits exactly when its leading digits are as many as its bytes. -/
theorem leadingDigits_length_eq_iff (line : List Byte) :
    (leadingDigits line).length = line.length ↔ line.all isHexDigit = true := by
  induction line with
  | nil => simp [leadingDigits]
  | cons b bs ih =>
    have := leadingDigits_le bs
    unfold leadingDigits
    split
    · next d h => simp [isHexDigit, h, ← ih]
    · next h => simp [isHexDigit, h]

/-- `lineError` finds nothing exactly on the legal data lines (30 R48). -/
theorem lineError_none_iff (line : List Byte) : lineError line = none ↔ dataLineOk line = true := by
  have hle := leadingDigits_le line
  have hall := leadingDigits_length_eq_iff line
  simp only [dataLineOk, Bool.and_eq_true, beq_iff_eq, ← hall]
  have h18 : Config.NHEX = 18 := rfl
  unfold lineError
  simp only
  split_ifs <;> simp only [false_iff, true_iff] <;> omega

/-- The digits accepted before an offence are leading digits of the line, at most 18 (60 R113). -/
theorem lineError_accepted_le {line : List Byte} {e : LineError} (h : lineError line = some e) :
    e.accepted ≤ (leadingDigits line).length ∧ e.accepted ≤ 18 := by
  unfold lineError at h
  simp only at h
  split_ifs at h <;> simp only [Option.some.injEq] at h <;> subst h <;> simp only [LineError.accepted] <;> omega

end Sys2Proof.Machine
end

