-- ==== Sys2Proof/Laws/State.lean ====
section
/-! SUPPORT. One lemma per field per named update of State, so that no proof unfolds a record update. -/

namespace Sys2Proof.Machine

section
variable (s : State)

@[simp] theorem State.outPut_mode (b : Byte) : (s.outPut b).mode = s.mode := rfl
@[simp] theorem State.outPut_col (b : Byte) : (s.outPut b).col = s.col := rfl
@[simp] theorem State.outPut_lstate (b : Byte) : (s.outPut b).lstate = s.lstate := rfl
@[simp] theorem State.outPut_acc (b : Byte) : (s.outPut b).acc = s.acc := rfl
@[simp] theorem State.outPut_ndig (b : Byte) : (s.outPut b).ndig = s.ndig := rfl
@[simp] theorem State.outPut_widx (b : Byte) : (s.outPut b).widx = s.widx := rfl
@[simp] theorem State.outPut_status (b : Byte) : (s.outPut b).status = s.status := rfl
@[simp] theorem State.outPut_cause (b : Byte) : (s.outPut b).cause = s.cause := rfl
@[simp] theorem State.outPut_vinfo (b : Byte) : (s.outPut b).vinfo = s.vinfo := rfl
@[simp] theorem State.outPut_icause (b : Byte) : (s.outPut b).icause = s.icause := rfl
@[simp] theorem State.outPut_input (b : Byte) : (s.outPut b).input = s.input := rfl
@[simp] theorem State.outPut_out (b : Byte) : (s.outPut b).out = s.out ++ [b] := rfl
@[simp] theorem State.outPut_diag (b : Byte) : (s.outPut b).diag = s.diag := rfl
@[simp] theorem State.outPut_upset (b : Byte) : (s.outPut b).upset = s.upset := rfl
@[simp] theorem State.outPut_diagText (b : Byte) : (s.outPut b).diagText = s.diagText := rfl
@[simp] theorem State.outPut_wires (b : Byte) : (s.outPut b).wires = s.wires := rfl

@[simp] theorem State.outPuts_mode (bs : List Byte) : (s.outPuts bs).mode = s.mode := rfl
@[simp] theorem State.outPuts_col (bs : List Byte) : (s.outPuts bs).col = s.col := rfl
@[simp] theorem State.outPuts_lstate (bs : List Byte) : (s.outPuts bs).lstate = s.lstate := rfl
@[simp] theorem State.outPuts_acc (bs : List Byte) : (s.outPuts bs).acc = s.acc := rfl
@[simp] theorem State.outPuts_ndig (bs : List Byte) : (s.outPuts bs).ndig = s.ndig := rfl
@[simp] theorem State.outPuts_widx (bs : List Byte) : (s.outPuts bs).widx = s.widx := rfl
@[simp] theorem State.outPuts_status (bs : List Byte) : (s.outPuts bs).status = s.status := rfl
@[simp] theorem State.outPuts_cause (bs : List Byte) : (s.outPuts bs).cause = s.cause := rfl
@[simp] theorem State.outPuts_vinfo (bs : List Byte) : (s.outPuts bs).vinfo = s.vinfo := rfl
@[simp] theorem State.outPuts_icause (bs : List Byte) : (s.outPuts bs).icause = s.icause := rfl
@[simp] theorem State.outPuts_input (bs : List Byte) : (s.outPuts bs).input = s.input := rfl
@[simp] theorem State.outPuts_out (bs : List Byte) : (s.outPuts bs).out = s.out ++ bs := rfl
@[simp] theorem State.outPuts_diag (bs : List Byte) : (s.outPuts bs).diag = s.diag := rfl
@[simp] theorem State.outPuts_upset (bs : List Byte) : (s.outPuts bs).upset = s.upset := rfl
@[simp] theorem State.outPuts_diagText (bs : List Byte) : (s.outPuts bs).diagText = s.diagText := rfl
@[simp] theorem State.outPuts_wires (bs : List Byte) : (s.outPuts bs).wires = s.wires := rfl

@[simp] theorem State.withInput_mode (evs : List HostEvent) : (s.withInput evs).mode = s.mode := rfl
@[simp] theorem State.withInput_col (evs : List HostEvent) : (s.withInput evs).col = s.col := rfl
@[simp] theorem State.withInput_lstate (evs : List HostEvent) : (s.withInput evs).lstate = s.lstate := rfl
@[simp] theorem State.withInput_acc (evs : List HostEvent) : (s.withInput evs).acc = s.acc := rfl
@[simp] theorem State.withInput_ndig (evs : List HostEvent) : (s.withInput evs).ndig = s.ndig := rfl
@[simp] theorem State.withInput_widx (evs : List HostEvent) : (s.withInput evs).widx = s.widx := rfl
@[simp] theorem State.withInput_status (evs : List HostEvent) : (s.withInput evs).status = s.status := rfl
@[simp] theorem State.withInput_cause (evs : List HostEvent) : (s.withInput evs).cause = s.cause := rfl
@[simp] theorem State.withInput_vinfo (evs : List HostEvent) : (s.withInput evs).vinfo = s.vinfo := rfl
@[simp] theorem State.withInput_icause (evs : List HostEvent) : (s.withInput evs).icause = s.icause := rfl
@[simp] theorem State.withInput_input (evs : List HostEvent) : (s.withInput evs).input = evs := rfl
@[simp] theorem State.withInput_out (evs : List HostEvent) : (s.withInput evs).out = s.out := rfl
@[simp] theorem State.withInput_diag (evs : List HostEvent) : (s.withInput evs).diag = s.diag := rfl
@[simp] theorem State.withInput_upset (evs : List HostEvent) : (s.withInput evs).upset = s.upset := rfl
@[simp] theorem State.withInput_diagText (evs : List HostEvent) : (s.withInput evs).diagText = s.diagText := rfl
@[simp] theorem State.withInput_wires (evs : List HostEvent) : (s.withInput evs).wires = s.wires := rfl

@[simp] theorem State.setY_mode (y : Word) : (s.setY y).mode = s.mode := rfl
@[simp] theorem State.setY_col (y : Word) : (s.setY y).col = s.col := rfl
@[simp] theorem State.setY_lstate (y : Word) : (s.setY y).lstate = s.lstate := rfl
@[simp] theorem State.setY_acc (y : Word) : (s.setY y).acc = s.acc := rfl
@[simp] theorem State.setY_ndig (y : Word) : (s.setY y).ndig = s.ndig := rfl
@[simp] theorem State.setY_widx (y : Word) : (s.setY y).widx = s.widx := rfl
@[simp] theorem State.setY_status (y : Word) : (s.setY y).status = s.status := rfl
@[simp] theorem State.setY_cause (y : Word) : (s.setY y).cause = s.cause := rfl
@[simp] theorem State.setY_vinfo (y : Word) : (s.setY y).vinfo = s.vinfo := rfl
@[simp] theorem State.setY_icause (y : Word) : (s.setY y).icause = s.icause := rfl
@[simp] theorem State.setY_input (y : Word) : (s.setY y).input = s.input := rfl
@[simp] theorem State.setY_out (y : Word) : (s.setY y).out = s.out := rfl
@[simp] theorem State.setY_diag (y : Word) : (s.setY y).diag = s.diag := rfl
@[simp] theorem State.setY_upset (y : Word) : (s.setY y).upset = s.upset := rfl
@[simp] theorem State.setY_diagText (y : Word) : (s.setY y).diagText = s.diagText := rfl
@[simp] theorem State.setY_wires (y : Word) : (s.setY y).wires = { s.wires with y := y } := rfl

@[simp] theorem State.setW_mode (w : Low64) : (s.setW w).mode = s.mode := rfl
@[simp] theorem State.setW_col (w : Low64) : (s.setW w).col = s.col := rfl
@[simp] theorem State.setW_lstate (w : Low64) : (s.setW w).lstate = s.lstate := rfl
@[simp] theorem State.setW_acc (w : Low64) : (s.setW w).acc = s.acc := rfl
@[simp] theorem State.setW_ndig (w : Low64) : (s.setW w).ndig = s.ndig := rfl
@[simp] theorem State.setW_widx (w : Low64) : (s.setW w).widx = s.widx := rfl
@[simp] theorem State.setW_status (w : Low64) : (s.setW w).status = s.status := rfl
@[simp] theorem State.setW_cause (w : Low64) : (s.setW w).cause = s.cause := rfl
@[simp] theorem State.setW_vinfo (w : Low64) : (s.setW w).vinfo = s.vinfo := rfl
@[simp] theorem State.setW_icause (w : Low64) : (s.setW w).icause = s.icause := rfl
@[simp] theorem State.setW_input (w : Low64) : (s.setW w).input = s.input := rfl
@[simp] theorem State.setW_out (w : Low64) : (s.setW w).out = s.out := rfl
@[simp] theorem State.setW_diag (w : Low64) : (s.setW w).diag = s.diag := rfl
@[simp] theorem State.setW_upset (w : Low64) : (s.setW w).upset = s.upset := rfl
@[simp] theorem State.setW_diagText (w : Low64) : (s.setW w).diagText = s.diagText := rfl
@[simp] theorem State.setW_wires (w : Low64) : (s.setW w).wires = { s.wires with w := w } := rfl

@[simp] theorem State.setT_mode (t : Byte) : (s.setT t).mode = s.mode := rfl
@[simp] theorem State.setT_col (t : Byte) : (s.setT t).col = s.col := rfl
@[simp] theorem State.setT_lstate (t : Byte) : (s.setT t).lstate = s.lstate := rfl
@[simp] theorem State.setT_acc (t : Byte) : (s.setT t).acc = s.acc := rfl
@[simp] theorem State.setT_ndig (t : Byte) : (s.setT t).ndig = s.ndig := rfl
@[simp] theorem State.setT_widx (t : Byte) : (s.setT t).widx = s.widx := rfl
@[simp] theorem State.setT_status (t : Byte) : (s.setT t).status = s.status := rfl
@[simp] theorem State.setT_cause (t : Byte) : (s.setT t).cause = s.cause := rfl
@[simp] theorem State.setT_vinfo (t : Byte) : (s.setT t).vinfo = s.vinfo := rfl
@[simp] theorem State.setT_icause (t : Byte) : (s.setT t).icause = s.icause := rfl
@[simp] theorem State.setT_input (t : Byte) : (s.setT t).input = s.input := rfl
@[simp] theorem State.setT_out (t : Byte) : (s.setT t).out = s.out := rfl
@[simp] theorem State.setT_diag (t : Byte) : (s.setT t).diag = s.diag := rfl
@[simp] theorem State.setT_upset (t : Byte) : (s.setT t).upset = s.upset := rfl
@[simp] theorem State.setT_diagText (t : Byte) : (s.setT t).diagText = s.diagText := rfl
@[simp] theorem State.setT_wires (t : Byte) : (s.setT t).wires = { s.wires with t := t } := rfl

@[simp] theorem raise_verifyMismatch_mode (v : BitVec 2) : (raise (.verifyMismatch v) s).mode = s.mode := rfl
@[simp] theorem raise_verifyMismatch_col (v : BitVec 2) : (raise (.verifyMismatch v) s).col = s.col := rfl
@[simp] theorem raise_verifyMismatch_lstate (v : BitVec 2) : (raise (.verifyMismatch v) s).lstate = s.lstate := rfl
@[simp] theorem raise_verifyMismatch_acc (v : BitVec 2) : (raise (.verifyMismatch v) s).acc = s.acc := rfl
@[simp] theorem raise_verifyMismatch_ndig (v : BitVec 2) : (raise (.verifyMismatch v) s).ndig = s.ndig := rfl
@[simp] theorem raise_verifyMismatch_widx (v : BitVec 2) : (raise (.verifyMismatch v) s).widx = s.widx + 1 := rfl
@[simp] theorem raise_verifyMismatch_status (v : BitVec 2) : (raise (.verifyMismatch v) s).status = .fault := rfl
@[simp] theorem raise_verifyMismatch_cause (v : BitVec 2) : (raise (.verifyMismatch v) s).cause = 1 := rfl
@[simp] theorem raise_verifyMismatch_vinfo (v : BitVec 2) : (raise (.verifyMismatch v) s).vinfo = v := rfl
@[simp] theorem raise_verifyMismatch_icause (v : BitVec 2) : (raise (.verifyMismatch v) s).icause = s.icause := rfl
@[simp] theorem raise_verifyMismatch_input (v : BitVec 2) : (raise (.verifyMismatch v) s).input = s.input := rfl
@[simp] theorem raise_verifyMismatch_out (v : BitVec 2) : (raise (.verifyMismatch v) s).out = s.out := rfl
@[simp] theorem raise_verifyMismatch_diag (v : BitVec 2) : (raise (.verifyMismatch v) s).diag = s.diag ++ s.diagLine := rfl
@[simp] theorem raise_verifyMismatch_upset (v : BitVec 2) : (raise (.verifyMismatch v) s).upset = s.upset := rfl
@[simp] theorem raise_verifyMismatch_diagText (v : BitVec 2) : (raise (.verifyMismatch v) s).diagText = s.diagText := rfl
@[simp] theorem raise_verifyMismatch_wires (v : BitVec 2) : (raise (.verifyMismatch v) s).wires = s.wires := rfl

@[simp] theorem raise_inputFormat_mode (c : ICause) : (raise (.inputFormat c) s).mode = s.mode := rfl
@[simp] theorem raise_inputFormat_col (c : ICause) : (raise (.inputFormat c) s).col = s.col := rfl
@[simp] theorem raise_inputFormat_lstate (c : ICause) : (raise (.inputFormat c) s).lstate = s.lstate := rfl
@[simp] theorem raise_inputFormat_acc (c : ICause) : (raise (.inputFormat c) s).acc = s.acc := rfl
@[simp] theorem raise_inputFormat_ndig (c : ICause) : (raise (.inputFormat c) s).ndig = s.ndig := rfl
@[simp] theorem raise_inputFormat_widx (c : ICause) : (raise (.inputFormat c) s).widx = s.widx := rfl
@[simp] theorem raise_inputFormat_status (c : ICause) : (raise (.inputFormat c) s).status = .fault := rfl
@[simp] theorem raise_inputFormat_cause (c : ICause) : (raise (.inputFormat c) s).cause = 2 := rfl
@[simp] theorem raise_inputFormat_vinfo (c : ICause) : (raise (.inputFormat c) s).vinfo = s.vinfo := rfl
@[simp] theorem raise_inputFormat_icause (c : ICause) : (raise (.inputFormat c) s).icause = icauseCode c := rfl
@[simp] theorem raise_inputFormat_input (c : ICause) : (raise (.inputFormat c) s).input = s.input := rfl
@[simp] theorem raise_inputFormat_out (c : ICause) : (raise (.inputFormat c) s).out = s.out := rfl
@[simp] theorem raise_inputFormat_diag (c : ICause) : (raise (.inputFormat c) s).diag = s.diag := rfl
@[simp] theorem raise_inputFormat_upset (c : ICause) : (raise (.inputFormat c) s).upset = s.upset := rfl
@[simp] theorem raise_inputFormat_diagText (c : ICause) : (raise (.inputFormat c) s).diagText = s.diagText := rfl
@[simp] theorem raise_inputFormat_wires (c : ICause) : (raise (.inputFormat c) s).wires = s.wires := rfl

@[simp] theorem resetElements_mode (m : Option (BitVec 1)) : (resetElements m s).mode = m.getD 1 := rfl
@[simp] theorem resetElements_col (m : Option (BitVec 1)) : (resetElements m s).col = 0 := rfl
@[simp] theorem resetElements_lstate (m : Option (BitVec 1)) : (resetElements m s).lstate = .sol := rfl
@[simp] theorem resetElements_acc (m : Option (BitVec 1)) : (resetElements m s).acc = 0 := rfl
@[simp] theorem resetElements_ndig (m : Option (BitVec 1)) : (resetElements m s).ndig = 0 := rfl
@[simp] theorem resetElements_widx (m : Option (BitVec 1)) : (resetElements m s).widx = 0 := rfl
@[simp] theorem resetElements_status (m : Option (BitVec 1)) : (resetElements m s).status = .run := rfl
@[simp] theorem resetElements_cause (m : Option (BitVec 1)) : (resetElements m s).cause = 0 := rfl
@[simp] theorem resetElements_vinfo (m : Option (BitVec 1)) : (resetElements m s).vinfo = 0 := rfl
@[simp] theorem resetElements_icause (m : Option (BitVec 1)) : (resetElements m s).icause = 0 := rfl
@[simp] theorem resetElements_input (m : Option (BitVec 1)) : (resetElements m s).input = s.input := rfl
@[simp] theorem resetElements_out (m : Option (BitVec 1)) : (resetElements m s).out = s.out := rfl
@[simp] theorem resetElements_diag (m : Option (BitVec 1)) : (resetElements m s).diag = s.diag := rfl
@[simp] theorem resetElements_upset (m : Option (BitVec 1)) : (resetElements m s).upset = s.upset := rfl
@[simp] theorem resetElements_diagText (m : Option (BitVec 1)) : (resetElements m s).diagText = s.diagText := rfl
@[simp] theorem resetElements_wires (m : Option (BitVec 1)) : (resetElements m s).wires = s.wires := rfl

@[simp] theorem State.withInput_withInput (a b : List HostEvent) : (s.withInput a).withInput b = s.withInput b := rfl
@[simp] theorem State.withInput_upsetNow (evs : List HostEvent) : (s.withInput evs).upsetNow = s.upsetNow := rfl
@[simp] theorem State.withInput_diagLine (evs : List HostEvent) : (s.withInput evs).diagLine = s.diagLine := rfl

end

end Sys2Proof.Machine
end

