-- ==== Sys2Proof/Laws/Ops.lean ====
section
/-! SUPPORT. What each shared operation can do, said once. -/

namespace Sys2Proof.Machine

/-! ### When an operation is enabled (43 R93, R106) -/

theorem whenSelected_run {s : State} (h : s.status = .run) (b : Bool) (t : State) :
    whenSelected s b t = if b then .next t else .refused .notSelected := by
  simp [whenSelected, h]

theorem whenSelected_ended {s : State} (h : s.status ≠ .run) (b : Bool) (t : State) :
    whenSelected s b t = .refused .runEnded := by
  unfold whenSelected
  split <;> simp_all

theorem whenSelected_next {s t u : State} {b : Bool} (h : whenSelected s b t = .next u) :
    s.status = .run ∧ b = true ∧ u = t := by
  unfold whenSelected at h
  split at h
  · split at h <;> simp_all
  · simp at h
  · simp at h

/-! ### Raising a fault (60 R116) -/

/-- Whatever fault is raised, these elements and `OUT` keep their values. -/
theorem raise_keeps (f : FaultInfo) (s : State) :
    (raise f s).acc = s.acc ∧ (raise f s).ndig = s.ndig ∧ (raise f s).lstate = s.lstate ∧ (raise f s).col = s.col ∧
    (raise f s).mode = s.mode ∧ (raise f s).out = s.out ∧ (raise f s).input = s.input ∧ (raise f s).upset = s.upset ∧
    (raise f s).diagText = s.diagText ∧ (raise f s).wires = s.wires := by
  cases f <;> simp

theorem raise_status (f : FaultInfo) (s : State) : (raise f s).status = .fault := by
  cases f <;> rfl

theorem icauseCode_cases (c : ICause) : icauseCode c = 1 ∨ icauseCode c = 2 := by
  cases c <;> decide

/-! ### Emission with re-wrap (43 R102, R103) -/

/-- The bytes that data characters put on `OUT` from column `c`: a line feed after each that fills the line. -/
def wrapped (c : BitVec 4) : List Byte → List Byte
  | [] => []
  | b :: bs => if c = 15 then b :: Config.LF :: wrapped 0 bs else b :: wrapped (c + 1) bs

theorem emit_eq (c : Byte) (s : State) :
    emit c s = { s with out := s.out ++ wrapped s.col [c], col := s.col + 1 } := by
  unfold emit wrapped wrapped
  split
  · next h => simp [h, State.outPuts]
  · simp [State.outPut]

theorem wrapped_cons (c : BitVec 4) (b : Byte) (bs : List Byte) :
    wrapped c (b :: bs) = wrapped c [b] ++ wrapped (c + 1) bs := by
  by_cases h : c = 15
  · subst h
    simp [wrapped]
  · simp only [wrapped, if_neg h, List.cons_append, List.nil_append]

/-- All of an emission: what is put, where `COL` ends, and nothing else. -/
theorem emitAll_eq (cs : List Byte) (s : State) :
    cs.foldl (fun t c => emit c t) s =
      { s with out := s.out ++ wrapped s.col cs, col := s.col + BitVec.ofNat 4 cs.length } := by
  induction cs generalizing s with
  | nil => simp [wrapped]
  | cons b bs ih =>
    rw [List.foldl_cons, ih, emit_eq, wrapped_cons s.col b bs]
    simp only [List.append_assoc, List.length_cons]
    congr 1
    rw [BitVec.add_assoc, BitVec.ofNat_add, BitVec.add_comm 1]
    rfl

theorem spell_length (y : Word) : (spell y).length = 18 := by
  simp [spell]

/-- `EMITWORD` (43 R103). -/
theorem emitWord_eq (y : Word) (s : State) :
    emitWord y s = { s with out := s.out ++ wrapped s.col (spell y), col := s.col + 2 } := by
  unfold emitWord
  rw [emitAll_eq, spell_length]
  rfl

/-! ### The kernel call and the Word operation (42 R87, 43 R101) -/

theorem verify_ok_iff (yf ys yn y : Word) : verify yf ys yn = .ok y ↔ ys = yf ∧ yn = yf ∧ y = yf := by
  have hb : ∀ b : Bool, BitVec.ofBool b = 1 ↔ b = true := by decide
  unfold verify mS mN
  simp only [hb, bne_iff_ne]
  split
  · next h => simp only [reduceCtorEq, false_iff]; tauto
  · next h => simp only [Except.ok.injEq]; constructor <;> (intro; tauto)

/-- A mismatch carries at least one comparator's bit. -/
theorem verify_error {yf ys yn : Word} {f : FaultInfo} (h : verify yf ys yn = .error f) :
    f = .verifyMismatch (vinfoOf yf ys yn) ∧ vinfoOf yf ys yn ≠ 0 := by
  have hb : ∀ b c : BitVec 1, (c = 1 ∨ b = 1) → b ++ c ≠ (0 : BitVec 2) := by decide
  unfold verify at h
  split at h
  · next hm => exact ⟨by simpa using h.symm, hb _ _ hm⟩
  · simp at h

/-- Everything `REVWORD` can answer: the fast path's value, or a mismatch, the latter in verified mode only. -/
theorem revword_cases (s : State) (x : Word) :
    revword s x = .ok (pathF s x) ∨
    ∃ v, v ≠ 0 ∧ s.mode = 1 ∧ revword s x = .error (.verifyMismatch v) := by
  unfold revword
  split
  · next hm =>
    cases h : verify (pathF s x) (pathS s x) (pathN s x) with
    | ok y => exact .inl (by rw [((verify_ok_iff _ _ _ _).1 h).2.2])
    | error f =>
      obtain ⟨rfl, hv⟩ := verify_error h
      exact .inr ⟨_, hv, hm, rfl⟩
  · exact .inl rfl

/-- Everything the Word operation can answer. -/
theorem wordOp_cases (s : State) :
    wordOp s = .ok { s with
      widx := s.widx + 1, out := s.out ++ wrapped s.col (spell (pathF s s.acc)), col := s.col + 2,
      acc := 0, ndig := 0, lstate := .sol } ∨
    ∃ v, v ≠ 0 ∧ s.mode = 1 ∧ wordOp s = .error (.verifyMismatch v) := by
  unfold wordOp
  rcases revword_cases s s.acc with h | ⟨v, hv, hm, h⟩
  · rw [h]
    left
    simp [emitWord_eq]
  · rw [h]
    exact .inr ⟨v, hv, hm, rfl⟩

end Sys2Proof.Machine
end

