-- ==== Sys2Proof/Laws/Lines.lean ====
section
/-! SUPPORT. What the receive operations and the line-level operations can do, said once. -/

namespace Sys2Proof.Machine

/-! ### Accepted digits and legal lines (43 R107, 30 R48) -/

/-- Accepting digits writes `ACC`, `NDIG` and `LSTATE` only. -/
theorem acceptDigits_keeps (ds : List Nibble) (n : Nat) (s : State) :
    ∃ acc ndig lstate, acceptDigits ds n s = { s with acc := acc, ndig := ndig, lstate := lstate } := by
  unfold acceptDigits
  split
  · exact ⟨s.acc, s.ndig, s.lstate, rfl⟩
  · exact ⟨_, _, _, rfl⟩

theorem leadingDigits_of_legal {line : List Byte} (h : lineError line = none) : (leadingDigits line).length = 18 := by
  have h1 := (lineError_none_iff line).1 h
  simp only [dataLineOk, Bool.and_eq_true, beq_iff_eq] at h1
  rw [(leadingDigits_length_eq_iff line).2 h1.2, h1.1]

/-- A legal data line is the Word operation, by its end. -/
theorem dataLine_of_legal {line : List Byte} (h : lineError line = none) (tm : Term) (s : State) :
    dataLine line tm s =
      let t := acceptDigits (leadingDigits line) 18 s
      match tm with
      | .lf => orRaise t (wordOp t)
      | .eos => orRaise t (lastWordOp t) := by
  unfold dataLine lastWordOp
  simp only [h]
  rcases wordOp_cases (acceptDigits (leadingDigits line) 18 s) with hw | ⟨v, -, -, hw⟩ <;> rw [hw] <;> cases tm <;> rfl

/-- A malformed data line raises its fault after the digits accepted before it. -/
theorem dataLine_of_malformed {line : List Byte} {e : LineError} (h : lineError line = some e) (tm : Term) (s : State) :
    dataLine line tm s = raise (.inputFormat e.icause) (acceptDigits (leadingDigits line) e.accepted s) := by
  unfold dataLine
  simp only [h]

/-- No hexadecimal digit is a line feed or the header marker. -/
theorem isHexDigit_ne {b : Byte} (h : isHexDigit b = true) : b ≠ Config.LF ∧ b ≠ Config.MARKER := by
  constructor <;> rintro rfl <;> simp [isHexDigit, hexDec?_lf, hexDec?_marker] at h

/-- A legal data line is a data line, whatever ends it. -/
theorem isDataLine_of_legal {line : List Byte} (h : dataLineOk line = true) (tm : Term) : isDataLine line tm = true := by
  simp only [dataLineOk, Bool.and_eq_true, beq_iff_eq, List.all_eq_true] at h
  have hp : payloadOk line = true := by
    rw [payloadOk, List.all_eq_true]
    intro b hb
    simpa using (isHexDigit_ne (h.2 b hb)).1
  cases line with
  | nil => simp [Config.NHEX] at h
  | cons b bs =>
    have hm := (isHexDigit_ne (h.2 b (by simp))).2
    simp only [isDataLine, hp, List.head?_cons, List.isEmpty_cons]
    simpa using hm

/-! ### The pending input is read by no operation (20 R29) -/

theorem raise_withInput (f : FaultInfo) (s : State) (evs : List HostEvent) :
    raise f (s.withInput evs) = (raise f s).withInput evs := by
  cases f <;> rfl

theorem wordOp_withInput (s : State) (evs : List HostEvent) :
    orRaise (s.withInput evs) (wordOp (s.withInput evs)) = (orRaise s (wordOp s)).withInput evs := by
  have h : revword (s.withInput evs) (s.withInput evs).acc = revword s s.acc := rfl
  simp only [wordOp, h]
  cases revword s s.acc
  · exact raise_withInput _ _ _
  · simp only [orRaise, emitWord_eq]
    rfl

theorem lastWordOp_withInput (s : State) (evs : List HostEvent) :
    orRaise (s.withInput evs) (lastWordOp (s.withInput evs)) = (orRaise s (lastWordOp s)).withInput evs := by
  have h : revword (s.withInput evs) (s.withInput evs).acc = revword s s.acc := rfl
  simp only [lastWordOp, wordOp, h]
  cases revword s s.acc
  · exact raise_withInput _ _ _
  · simp only [orRaise, emitWord_eq]
    rfl

theorem rxDigit_withInput (d : Nibble) (s : State) (evs : List HostEvent) :
    rxDigit d (s.withInput evs) = (rxDigit d s).withInput evs := by
  unfold rxDigit
  by_cases h : s.ndig.val < 18
  · rw [dif_pos h, dif_pos (show (s.withInput evs).ndig.val < 18 from h)]
    rfl
  · rw [dif_neg h, dif_neg (show ¬ (s.withInput evs).ndig.val < 18 from h)]
    exact raise_withInput _ _ _

theorem rxData_withInput (it : Item) (s : State) (evs : List HostEvent) :
    rxData it (s.withInput evs) = (rxData it s).withInput evs := by
  have hn : (s.withInput evs).ndig = s.ndig := rfl
  cases it with
  | eos =>
    by_cases h : s.ndig = 18
    · simp only [rxData, hn, if_pos h, lastWordOp_withInput]
    · simp only [rxData, hn, if_neg h, raise_withInput]
  | byte b =>
    simp only [rxData, hn]
    cases classOf b
    · by_cases h : s.ndig = 18
      · simp only [if_pos h, wordOp_withInput]
      · simp only [if_neg h, raise_withInput]
    · exact raise_withInput _ _ _
    · exact rxDigit_withInput _ _ _
    · exact raise_withInput _ _ _

end Sys2Proof.Machine
end

