-- ==== Sys2Proof/Laws/PerInstr.lean ====
section
/-! SUPPORT. A statement about every operation as syntax, one lemma per constructor: what kind of encoding it has (30 R55), and for the two
line formats how long its bytes are (30 R46 to R48). -/

namespace Sys2Proof.Laws.EncodedForm

/-- A well-formed operation that is bytes on `IN` is a line of format H, whose first byte is the marker, or a line of format D of 18
bytes, each with its terminator. -/
def Statement (i : Instr) : Prop :=
  i.wellFormed = true → ∀ bytes, encodeBytes i = some bytes →
    ∃ line tm, encode i = .line line tm ∧ bytes = line ++ tm.bytes ∧ (line.head? = some Config.MARKER ∨ line.length = 18)

theorem swap1 (x : Word) : Statement (.swap1 x) := by simp [Statement, encodeBytes]
theorem swap2 (x : Word) : Statement (.swap2 x) := by simp [Statement, encodeBytes]
theorem swap4 (x : Word) : Statement (.swap4 x) := by simp [Statement, encodeBytes]
theorem swapb (x : Word) : Statement (.swapb x) := by simp [Statement, encodeBytes]
theorem swapl (x : Word) : Statement (.swapl x) := by simp [Statement, encodeBytes]
theorem fast (x : Word) : Statement (.fast x) := by simp [Statement, encodeBytes]
theorem split (x : Word) : Statement (.split x) := by simp [Statement, encodeBytes]
theorem bsw8 (w : Low64) : Statement (.bsw8 w) := by simp [Statement, encodeBytes]
theorem bsw16 (w : Low64) : Statement (.bsw16 w) := by simp [Statement, encodeBytes]
theorem bsw32 (w : Low64) : Statement (.bsw32 w) := by simp [Statement, encodeBytes]
theorem join (w : Low64) (t : Byte) : Statement (.join w t) := by simp [Statement, encodeBytes]
theorem special (x : Word) : Statement (.special x) := by simp [Statement, encodeBytes]
theorem pcell (k : Fin 36) (x : Word) : Statement (.pcell k x) := by simp [Statement, encodeBytes]
theorem normal (x : Word) : Statement (.normal x) := by simp [Statement, encodeBytes]
theorem verify (yf ys yn : Word) : Statement (.verify yf ys yn) := by simp [Statement, encodeBytes]
theorem pass (yf : Word) : Statement (.pass yf) := by simp [Statement, encodeBytes]
theorem revword (x : Word) : Statement (.revword x) := by simp [Statement, encodeBytes]
theorem rxsol (it : Item) : Statement (.rxsol it) := by simp [Statement, encodeBytes]
theorem rxhdr (it : Item) : Statement (.rxhdr it) := by simp [Statement, encodeBytes]
theorem rxdata (it : Item) : Statement (.rxdata it) := by simp [Statement, encodeBytes]
theorem word : Statement .word := by simp [Statement, encodeBytes]
theorem emit (c : Byte) : Statement (.emit c) := by simp [Statement, encodeBytes]
theorem emitword (y : Word) : Statement (.emitword y) := by simp [Statement, encodeBytes]
theorem reset (modeIn : Option (BitVec 1)) : Statement (.reset modeIn) := by simp [Statement, encodeBytes]

theorem hdr (payload : List Byte) (tm : Term) : Statement (.hdr payload tm) := by
  intro _ bytes h
  exact ⟨_, tm, rfl, by simpa [encodeBytes] using h.symm, .inl rfl⟩

theorem data (line : List Byte) (tm : Term) : Statement (.data line tm) := by
  intro hw bytes h
  refine ⟨line, tm, rfl, by simpa [encodeBytes] using h.symm, .inr ?_⟩
  simp only [Instr.wellFormed, dataLineOk, Bool.and_eq_true, beq_iff_eq] at hw
  exact hw.1

end Sys2Proof.Laws.EncodedForm
end

