-- ==== Sys2Proof/Laws/Step.lean ====
section
/-! SUPPORT. What one step can do: an inversion of `step` down to the pure operations, cited instead of unfolding `exec`. -/

namespace Sys2Proof.Machine

/-! ### Where an operation's selector holds, it happens (30 R55, 43 R93) -/

theorem exec_rxsol {s : State} (hr : s.status = .run) (hl : s.lstate = .sol) (it : Item) :
    exec (.rxsol it) s = .next (rxSol it s) := by
  rw [exec, execRxsol, whenSelected_run hr, hl]
  rfl

theorem exec_rxhdr {s : State} (hr : s.status = .run) (hl : s.lstate = .hdr) (it : Item) :
    exec (.rxhdr it) s = .next (rxHdr it s) := by
  rw [exec, execRxhdr, whenSelected_run hr, hl]
  rfl

theorem exec_rxdata {s : State} (hr : s.status = .run) (hl : s.lstate = .data) (it : Item) :
    exec (.rxdata it) s = .next (rxData it s) := by
  rw [exec, execRxdata, whenSelected_run hr, hl]
  rfl

theorem exec_word {s : State} (hr : s.status = .run) (hl : s.lstate = .data) (hn : s.ndig = 18) :
    exec .word s = .next (orRaise s (wordOp s)) := by
  rw [exec, execWord, whenSelected_run hr, hl, hn]
  rfl

theorem exec_emit {s : State} (hr : s.status = .run) (c : Byte) : exec (.emit c) s = .next (emit c s) := by
  rw [exec, execEmit, whenSelected_run hr]
  rfl

theorem exec_emitword {s : State} (hr : s.status = .run) (y : Word) : exec (.emitword y) s = .next (emitWord y s) := by
  rw [exec, execEmitword, whenSelected_run hr]
  rfl

theorem exec_hdr {s : State} (hr : s.status = .run) (hl : s.lstate = .sol) {payload : List Byte}
    (hp : payloadOk payload = true) (tm : Term) : exec (.hdr payload tm) s = .next (hdrLine payload tm s) := by
  rw [exec, execHdr, whenSelected_run hr, hl, hp]
  rfl

theorem exec_data {s : State} (hr : s.status = .run) (hl : s.lstate = .sol) {line : List Byte} {tm : Term}
    (hd : isDataLine line tm = true) : exec (.data line tm) s = .next (dataLine line tm s) := by
  rw [exec, execData, whenSelected_run hr, hl, hd]
  rfl

theorem exec_verify {s : State} (hr : s.status = .run) (yf ys yn : Word) :
    exec (.verify yf ys yn) s = .next (checkedY s (verify yf ys yn)) := by
  rw [exec, execVerify, whenSelected_run hr]
  rfl

theorem exec_revword {s : State} (hr : s.status = .run) (x : Word) :
    exec (.revword x) s = .next (checkedY s (revword s x)) := by
  rw [exec, execRevword, whenSelected_run hr]
  rfl

/-! ### What a step can have done -/

/-- The bytes of a line, and the operation on them, for each line a step can take (30 R43, R46). -/
theorem exec_selectLine_next {line : List Byte} {tm : Term} {s t : State} (h : exec (selectLine line tm) s = .next t) :
    s.status = .run ∧ s.lstate = .sol ∧
    ((line = [] ∧ tm = .eos ∧ t = rxSol .eos s) ∨
     (∃ payload, line = Config.MARKER :: payload ∧ payloadOk payload = true ∧ t = hdrLine payload tm s) ∨
     (isDataLine line tm = true ∧ t = dataLine line tm s)) := by
  unfold selectLine at h
  split at h
  · split at h
    · obtain ⟨hr, hs, rfl⟩ := whenSelected_next h
      exact ⟨hr, by simpa using hs, .inl ⟨rfl, rfl, rfl⟩⟩
    · obtain ⟨hr, hs, rfl⟩ := whenSelected_next h
      simp only [Bool.and_eq_true, beq_iff_eq] at hs
      exact ⟨hr, hs.1, .inr (.inr ⟨hs.2, rfl⟩)⟩
  · split at h
    · next hb =>
      obtain ⟨hr, hs, rfl⟩ := whenSelected_next h
      simp only [Bool.and_eq_true, beq_iff_eq] at hs
      exact ⟨hr, hs.1, .inr (.inl ⟨_, by rw [hb], hs.2, rfl⟩)⟩
    · obtain ⟨hr, hs, rfl⟩ := whenSelected_next h
      simp only [Bool.and_eq_true, beq_iff_eq] at hs
      exact ⟨hr, hs.1, .inr (.inr ⟨hs.2, rfl⟩)⟩

/-- Everything a step that answers a next state can have done. -/
theorem step_next {s t : State} (h : step s = .next t) :
    ∃ ev rest, s.input = ev :: rest ∧
      ((∃ m, ev = .reset m ∧ t = resetElements m (s.withInput rest)) ∨
       (s.status = .run ∧
        ((∃ it, ev = .item it ∧
            ((s.lstate = .sol ∧ t = rxSol it (s.withInput rest)) ∨
             (s.lstate = .hdr ∧ t = rxHdr it (s.withInput rest)) ∨
             (s.lstate = .data ∧ t = rxData it (s.withInput rest)))) ∨
         (∃ line tm, ev = .line line tm ∧ s.lstate = .sol ∧
            ((line = [] ∧ tm = .eos ∧ t = rxSol .eos (s.withInput rest)) ∨
             (∃ payload, line = Config.MARKER :: payload ∧ payloadOk payload = true ∧
               t = hdrLine payload tm (s.withInput rest)) ∨
             (isDataLine line tm = true ∧ t = dataLine line tm (s.withInput rest))))))) := by
  unfold step at h
  split at h
  · simp at h
  · next ev rest hin =>
    refine ⟨ev, rest, hin, ?_⟩
    cases ev with
    | reset m => exact .inl ⟨m, rfl, by simpa [HostEvent.select, exec, execReset] using h.symm⟩
    | item it =>
      right
      simp only [HostEvent.select, selectItem] at h
      split at h <;> rename_i hl <;> obtain ⟨hr, -, rfl⟩ := whenSelected_next h
      · exact ⟨hr, .inl ⟨it, rfl, .inl ⟨hl, rfl⟩⟩⟩
      · exact ⟨hr, .inl ⟨it, rfl, .inr (.inl ⟨hl, rfl⟩)⟩⟩
      · exact ⟨hr, .inl ⟨it, rfl, .inr (.inr ⟨hl, rfl⟩)⟩⟩
    | line line tm =>
      obtain ⟨hr, hl, hc⟩ := exec_selectLine_next (show exec (selectLine line tm) (s.withInput rest) = .next t from h)
      exact .inr ⟨hr, .inr ⟨line, tm, rfl, hl, hc⟩⟩

end Sys2Proof.Machine
end

