-- ==== Sys2Proof/Tests/Slice0.lean ====
section
/-! SUPPORT. Tests. Expected values come from spec/95_test_vectors.md (the vector's id stands at the test) or from the rule named.
A witness shows that the hypotheses of the statement it is named after can be met together. -/

namespace Sys2Proof.Tests

-- One theorem at a time: a kernel evaluation waits for all before it, and too many waiting at once run out of threads.
set_option Elab.async false

open Sys2Proof Sys2Proof.Machine

/-! ### Small states -/

/-- A running block at the start of a line: nominal `UPSET`, `DIAG_LINE` the line "E" (95, opening). -/
def sol : State := { State.reset with upset := .listed [], diagText := .text [0x45#8] }

/-- Inside a header line. -/
def inHeader : State := { sol with lstate := .hdr }

/-- Inside a data line with `n` digits accepted. -/
def inData (n : Fin 19) (acc : Word) : State := { sol with lstate := .data, ndig := n, acc := acc }

/-- Inside a data line with its 18 digits. -/
def full : State := inData 18 1

/-- `full` with the special path's value for the first Word flipped in bit 0 (V-V3). -/
def fullUpset : State := { full with upset := .listed [⟨0, 1, 0⟩] }

/-- An ended run. -/
def ended : State := { sol with status := .done }

/-- A run that an input fault ended. -/
def faulted : State := { sol with status := .fault, cause := 2, icause := 1 }

/-- The next state, if there is one. -/
def after (o : Host.Outcome State Fault Refusal) : Option State :=
  match o with
  | .next t => some t
  | .fault _ => none
  | .refused _ => none

/-- The refusal, if there is one. -/
def refusalOf (o : Host.Outcome State Fault Refusal) : Option Refusal :=
  match o with
  | .next _ => none
  | .fault _ => none
  | .refused r => some r

/-- The 18 digits of the Word 1. -/
def lineOne : List Byte := List.replicate 17 0x30#8 ++ [0x31#8]

/-- `80000000000000`, LF, `0000`: the Word 1 reversed and spelled from column 2 (95 P1, line 3, and 43 R103). -/
def spelled : List Byte := 0x38#8 :: List.replicate 13 0x30#8 ++ [0x0A#8] ++ List.replicate 4 0x30#8

/-! ### Well-formedness: an ill-formed term for each check -/

theorem test_wellFormed_header_with_line_feed : (Instr.hdr [0x78#8, 0x0A#8] .lf).wellFormed = false := by decide
theorem test_wellFormed_data_of_17_digits : (Instr.data (List.replicate 17 0x30#8) .lf).wellFormed = false := by decide
theorem test_wellFormed_data_of_19_digits : (Instr.data (List.replicate 19 0x30#8) .lf).wellFormed = false := by decide
theorem test_wellFormed_data_with_a_bad_byte :
    (Instr.data (List.replicate 17 0x30#8 ++ [0x67#8]) .lf).wellFormed = false := by decide
theorem test_wellFormed_legal_lines :
    (Instr.hdr [0x40#8, 0x0D#8] .lf).wellFormed = true ∧ (Instr.data lineOne .eos).wellFormed = true := by decide

/-! ### Decoding: the encoding of each row of 30 R55, written out -/

/-- Format H with a payload, format H of `@` alone ended by `EOS`, format D (30 R47, R48). -/
theorem test_decode_lines :
    decodeBytes [0x40#8, 0x78#8, 0x0A#8, 0x30#8] = .ok (.hdr [0x78#8] .lf, [0x30#8]) ∧
    decodeBytes [0x40#8] = .ok (.hdr [] .eos, []) ∧
    decodeBytes [0x30#8, 0x30#8, 0x30#8, 0x30#8, 0x30#8, 0x30#8, 0x30#8, 0x30#8, 0x30#8, 0x30#8, 0x30#8, 0x30#8, 0x30#8,
      0x30#8, 0x30#8, 0x30#8, 0x30#8, 0x31#8, 0x0A#8] = .ok (.data lineOne .lf, []) := by
  refine ⟨?_, ?_, ?_⟩ <;> rfl

/-- The item rows: the line state selects (43 R93). -/
theorem test_decode_items :
    decode (.item .sol (.byte 0x40#8)) = .ok (.rxsol (.byte 0x40#8)) ∧
    decode (.item .hdr (.byte 0x40#8)) = .ok (.rxhdr (.byte 0x40#8)) ∧
    decode (.item .data .eos) = .ok (.rxdata .eos) := by
  refine ⟨?_, ?_, ?_⟩ <;> rfl

/-- RESET is selected by the reset input; wiring and called operations by nothing (30 R55). -/
theorem test_decode_the_other_rows :
    decode (.resetInput (some 0)) = .ok (.reset (some 0)) ∧ decode .wired = .error .noEncoding ∧
    decode .called = .error .noEncoding ∧ encode (.swap1 0) = .wired ∧ encode (.special 0) = .wired ∧
    encode (.pcell 0 0) = .wired ∧ encode (.verify 0 0 0) = .wired ∧ encode .word = .called := by
  refine ⟨?_, ?_, ?_, ?_, ?_, ?_, ?_, ?_⟩ <;> rfl

/-- Malformed lines (V-X1, V-X3, V-X2, V-F9) and no line at all (30 R43). -/
theorem test_decode_rejects :
    decodeLine [] .lf = .error (.badLine .emptyLine) ∧
    decodeLine (List.replicate 16 0x30#8 ++ [0x31#8]) .lf = .error (.badLine (.tooShort 17)) ∧
    decodeLine (List.replicate 17 0x30#8 ++ [0x67#8]) .lf = .error (.badLine (.nonHexAt 17)) ∧
    decodeLine (List.replicate 18 0x30#8 ++ [0x31#8]) .lf = .error (.badLine .tooLong) ∧
    decodeLine [] .eos = .error .noLine ∧ decodeLine [0x40#8, 0x0A#8] .eos = .error .notOneLine := by
  refine ⟨?_, ?_, ?_, ?_, ?_, ?_⟩ <;> rfl

/-- The one row of spec/opcode_table.json with fixed bits, HDR. -/
theorem test_decodeTableWord_hdr : decodeTableWord 8 0x40 = some (.hdr [] .eos) := by rfl

/-- The table word as the first step after reset: the header line is copied (V-H2). -/
theorem test_withFetchWord_hdr :
    (after (step (State.reset.withFetchWord 8 0x40))).map (fun t => (t.out, t.status)) = some ([0x40#8], .done) := by
  decide +kernel

/-! ### The fast path -/

/-- V-K3.1 and V-K3.3. -/
theorem test_swap1 : swap1 0x0123456789abcdef01#72 = 0x02138a9b4657cedf02#72 ∧
    swap1 0x800000000000000000#72 = 0x400000000000000000#72 := by decide +kernel
theorem test_swap2 : swap2 0x0123456789abcdef01#72 = 0x048c159d26ae37bf04#72 ∧
    swap2 0x800000000000000000#72 = 0x200000000000000000#72 := by decide +kernel
theorem test_swap4 : swap4 0x0123456789abcdef01#72 = 0x1032547698badcfe10#72 ∧
    swap4 0x800000000000000000#72 = 0x080000000000000000#72 := by decide +kernel
theorem test_swapB : swapB 0x0123456789abcdef01#72 = 0x452301ab896701efcd#72 ∧
    swapB 0x800000000000000000#72 = 0x000080000000000000#72 := by decide +kernel
theorem test_swapL : swapL 0x0123456789abcdef01#72 = 0xcdef016789ab012345#72 ∧
    swapL 0x800000000000000000#72 = 0x000000000000800000#72 := by decide +kernel

/-- V-K4.5, and not the pair reversal of V-N3. -/
theorem test_fast : fast 0x0123456789abcdef01#72 = 0x80f7b3d591e6a2c480#72 := by decide +kernel

/-- The result stands on the result wires (log 7). -/
theorem test_exec_fast :
    (after (exec (.fast 0xdeadbeefcafef00d42#72) sol)).map (·.wires.y) = some 0x42b00f7f53f77db57b#72 := by decide +kernel

/-! ### The reference paths -/

/-- V-K5.5, each step. -/
theorem test_special_steps :
    splitTop 0x0123456789abcdef01#72 = 0x01#8 ∧ splitLow 0x0123456789abcdef01#72 = 0x23456789abcdef01#64 ∧
    bsw8 0x23456789abcdef01#64 = 0x45238967cdab01ef#64 ∧ bsw16 0x45238967cdab01ef#64 = 0x8967452301efcdab#64 ∧
    bsw32 0x8967452301efcdab#64 = 0x01efcdab89674523#64 ∧
    join 0x01efcdab89674523#64 0x01#8 = 0x01efcdab8967452301#72 := by decide +kernel

/-- V-K5.5 and V-K5.7. -/
theorem test_special : special 0x0123456789abcdef01#72 = 0x80f7b3d591e6a2c480#72 ∧
    special 0xdeadbeefcafef00d42#72 = 0x42b00f7f53f77db57b#72 := by decide +kernel

/-- V-K6.1 and V-K6.6, on wires that are all zero. -/
theorem test_pcell : pcell 0 0xdeadbeefcafef00d42#72 0 = 0x400000000000000000#72 ∧
    pcell 35 0xdeadbeefcafef00d42#72 0 = 3#72 := by decide +kernel

/-- V-K6, all cells, and V-N1's right output. -/
theorem test_normal : normal 0xdeadbeefcafef00d42#72 = 0x42b00f7f53f77db57b#72 ∧
    normal 1#72 = 0x800000000000000000#72 := by decide +kernel

/-! ### The verifier -/

/-- V-V2, V-V3, V-V4: the comparators' bits. -/
theorem test_verify_vinfo :
    (after (exec (.verify 0x800000000000000001#72 0x800000000000000000#72 0x800000000000000000#72) sol)).map (·.vinfo) = some 3 ∧
    (after (exec (.verify 0x800000000000000000#72 0x800000000000000001#72 0x800000000000000000#72) sol)).map (·.vinfo) = some 1 ∧
    (after (exec (.verify 0x800000000000000000#72 0x800000000000000000#72 0#72) sol)).map (·.vinfo) = some 2 := by decide +kernel

/-- V-V6: fast mode passes the upset value. -/
theorem test_revword_fast_mode :
    (after (exec (.revword 1) { sol with mode := 0, upset := .listed [⟨1, 7, 9⟩] })).map (fun t => (t.wires.y, t.status)) =
      some (0x800000000000000001#72, .run) := by decide +kernel

/-- V-V5: a common upset passes the verifier. -/
theorem test_revword_common_upset :
    (after (exec (.revword 1) { sol with upset := .listed [⟨1, 1, 1⟩] })).map (fun t => (t.wires.y, t.status)) =
      some (0x800000000000000001#72, .run) := by decide +kernel

theorem test_pass : (after (exec (.pass 5) faulted)).map (·.wires.y) = some 5 := by decide +kernel

/-! ### The formatter -/

/-- V-X1 and V-X5: the first item of a line. -/
theorem test_rxsol_faults :
    (after (exec (.rxsol (.byte 0x0A#8)) sol)).map (fun t => (t.status, t.cause, t.icause)) = some (.fault, 2, 2) ∧
    (after (exec (.rxsol (.byte 0x20#8)) sol)).map (fun t => (t.status, t.cause, t.icause)) = some (.fault, 2, 1) := by
  decide +kernel

/-- P5, items 1 and 20. -/
theorem test_rxsol :
    (after (exec (.rxsol (.byte 0x35#8)) sol)).map (fun t => (t.lstate, t.ndig, t.acc)) = some (.data, 1, 5) ∧
    (after (exec (.rxsol (.byte 0x40#8)) sol)).map (fun t => (t.lstate, t.out)) = some (.hdr, [0x40#8]) := by decide +kernel

/-- P5, items 21 and 22. -/
theorem test_rxhdr :
    (after (exec (.rxhdr (.byte 0x78#8)) inHeader)).map (fun t => (t.lstate, t.out)) = some (.hdr, [0x78#8]) ∧
    (after (exec (.rxhdr (.byte 0x0A#8)) { inHeader with col := 2 })).map (fun t => (t.lstate, t.out, t.col)) =
      some (.sol, [0x0A#8], 2) := by decide +kernel

/-- P5, item 2; V-X11: `@` inside a data line. -/
theorem test_rxdata :
    (after (exec (.rxdata (.byte 0x35#8)) (inData 1 5))).map (fun t => (t.ndig, t.acc)) = some (2, 0x55#72) ∧
    (after (exec (.rxdata (.byte 0x40#8)) (inData 16 0))).map (fun t => (t.status, t.icause, t.ndig)) = some (.fault, 1, 16) := by
  decide +kernel

/-- V-S7 and V-F3: the Word 1. -/
theorem test_rxdata_end_of_line :
    (after (exec (.rxdata (.byte 0x0A#8)) full)).map (fun t => (t.col, t.lstate, t.ndig, t.widx, t.status)) =
      some (2, .sol, 0, 1, .run) ∧
    (after (exec (.rxdata .eos) full)).map (fun t => (t.out, t.status)) =
      some (0x38#8 :: List.replicate 15 0x30#8 ++ [0x0A#8, 0x30#8, 0x30#8], .done) := by decide +kernel

/-- V-V3, the end state. -/
theorem test_word_mismatch :
    (after (exec .word fullUpset)).map (fun t => (t.out, t.diag, t.exit)) = some ([], [0x45#8, 0x0A#8], 1) ∧
    (after (exec .word fullUpset)).map (fun t => (t.vinfo, t.ndig, t.acc, t.widx)) = some (1, 18, 1, 1) := by decide +kernel

/-- V-V4: the normal path's bit, through RXDATA's line feed. -/
theorem test_rxdata_mismatch_of_the_normal_path :
    (after (exec (.rxdata (.byte 0x0A#8)) { full with upset := .listed [⟨0, 0, 0x800000000000000000#72⟩] })).map
      (fun t => (t.vinfo, t.status, t.lstate)) = some (2, .fault, .data) := by decide +kernel

/-- 43 R102's example, and the column before it. -/
theorem test_emit :
    (after (exec (.emit 0x30#8) { sol with col := 15 })).map (fun t => (t.out, t.col)) = some ([0x30#8, 0x0A#8], 0) ∧
    (after (exec (.emit 0x30#8) { sol with col := 14 })).map (fun t => (t.out, t.col)) = some ([0x30#8], 15) := by decide +kernel

/-- The all-ones Word from column 14: two line feeds (95 P2, the 8th Word's place); and the Word `2^71` from column 2. -/
theorem test_emitword :
    (after (exec (.emitword 0xffffffffffffffffff#72) { sol with col := 14 })).map (fun t => (t.out, t.col)) =
      some ([0x66#8, 0x66#8, 0x0A#8] ++ List.replicate 16 0x66#8 ++ [0x0A#8], 0) ∧
    (after (exec (.emitword 0x800000000000000000#72) { sol with col := 2 })).map (fun t => (t.out, t.col)) =
      some (spelled, 4) := by decide +kernel

/-! ### The line level and reset -/

/-- V-H3: a header in the middle of an output line. -/
theorem test_hdr : (after (exec (.hdr [0x6D#8] .lf) { sol with col := 2 })).map (fun t => (t.out, t.col, t.lstate)) =
    some ([0x40#8, 0x6D#8, 0x0A#8], 2, .sol) := by decide +kernel

/-- V-F5: upper-case digits; V-X2: the malformed line's fault and what was accepted before it. -/
theorem test_data :
    (after (exec (.data (List.replicate 18 0x46#8) .lf) { sol with col := 14 })).map (fun t => (t.out, t.col)) =
      some ([0x66#8, 0x66#8, 0x0A#8] ++ List.replicate 16 0x66#8 ++ [0x0A#8], 0) ∧
    (after (exec (.data (List.replicate 17 0x30#8 ++ [0x67#8]) .lf) sol)).map (fun t => (t.exit, t.icause, t.ndig, t.lstate)) =
      some (2, 1, 17, .data) := by decide +kernel

/-- 70 R129: the strap, and that the fault is cleared. -/
theorem test_reset :
    (after (exec (.reset (some 0)) faulted)).map (fun t => (t.mode, t.status, t.cause, t.icause)) = some (0, .run, 0, 0) ∧
    (after (exec (.reset none) { faulted with mode := 0 })).map (·.mode) = some 1 := by decide +kernel

/-- 43 R106 and 60 R128: nothing pending, and an item after the end. -/
theorem test_step_refuses :
    refusalOf (step sol) = some .awaitingItem ∧ refusalOf (step (ended.withInput [.item .eos])) = some .runEnded ∧
    refusalOf (step (inHeader.withInput [.line [0x40#8] .lf])) = some .notSelected := by decide +kernel

/-! ### Witnesses: resets and steps -/

theorem witness_OnlyResetLeavesAnEndedRun :
    ended.status ≠ .run ∧ ended.input = [] ∧
    (ended.withInput [.item .eos]).input = .item .eos :: [] ∧
    (ended.withInput [.line [] .lf]).input = .line [] .lf :: [] ∧
    (faulted.withInput [.reset none]).status ≠ .run ∧ (faulted.withInput [.reset none]).input = .reset none :: [] := by decide

theorem witness_OnlyResetWritesModeOrClearsAFault :
    (∀ m, Instr.pass 5 ≠ .reset m) ∧ exec (.pass 5) faulted = .next (faulted.setY 5) ∧ faulted.cause ≠ 0 ∧ faulted.icause ≠ 0 ∧
    exec (.pass 5) { faulted with vinfo := 1 } = .next ({ faulted with vinfo := 1 }.setY 5) := by
  refine ⟨fun m h => (by cases h), rfl, by decide, by decide, rfl⟩

theorem witness_AStepIsEnabledWhileRunningAndConsumesOneItem :
    (sol.withInput [.item .eos]).input = .item .eos :: [] ∧ (after (step (sol.withInput [.item .eos]))).isSome = true ∧
    (after (step (inHeader.withInput [.item .eos]))).isSome = true ∧ (after (step (full.withInput [.item .eos]))).isSome = true := by
  decide +kernel

theorem witness_StepRunsTheDecodedOperation :
    decode ((HostEvent.line [0x40#8] .lf).encoding .sol) = .ok (.hdr [] .lf) ∧
    decode ((HostEvent.line [] .lf).encoding .sol) = .error (.badLine .emptyLine) ∧
    sol.lstate = .sol ∧ inHeader.lstate = .hdr ∧ full.lstate = .data := by
  refine ⟨rfl, rfl, rfl, rfl, rfl⟩

theorem witness_HistoriesAreNeverReadBack :
    sol.unread = ({ sol with out := [0x40#8], diag := [0x0A#8], wires := ⟨1, 2, 3⟩ } : State).unread := by rfl

theorem witness_EveryStepKeepsTheInvariant :
    Inv (full.withInput [.item .eos]) ∧ (after (step (full.withInput [.item .eos]))).isSome = true ∧
    Inv (fullUpset.withInput [.item .eos]) ∧
    (after (step (fullUpset.withInput [.item .eos]))).map (·.status) = some .fault := by decide +kernel

theorem witness_EveryStepKeepsColInStepWithTheWords :
    Inv (full.withInput [.item .eos]) ∧ ColInv (full.withInput [.item .eos]) ∧
    (after (step (full.withInput [.item .eos]))).map (·.emitted) = some 1 := by decide +kernel

/-! ### Witnesses: the paths, at the ends of each range -/

theorem witness_Swap1ExchangesTheBitsOfEveryPair :
    (0 : Nat) < 72 ∧ (swap1 1).getLsbD (0 ^^^ 1) = true ∧ (swap1 (1 <<< 71)).getLsbD (71 ^^^ 1) = true := by decide +kernel

theorem witness_Swap2ExchangesThePairsOfEveryNibble :
    (71 : Nat) < 72 ∧ (swap2 1).getLsbD (0 ^^^ 2) = true ∧ (swap2 (1 <<< 71)).getLsbD (71 ^^^ 2) = true := by decide +kernel

theorem witness_Swap4ExchangesTheNibblesOfEveryByte :
    (71 : Nat) < 72 ∧ (swap4 1).getLsbD (0 ^^^ 4) = true ∧ (swap4 (1 <<< 71)).getLsbD (71 ^^^ 4) = true := by decide +kernel

/-- Bits 7, 8, 15, 16 and 23: the last or first of the three kinds of byte. -/
theorem witness_SwapBExchangesTheOuterBytesOfEveryGroup :
    (7 / 8) % 3 = 0 ∧ (swapB (1 <<< 7)).getLsbD 23 = true ∧ (8 / 8) % 3 = 1 ∧ (swapB (1 <<< 8)).getLsbD 8 = true ∧
    (15 / 8) % 3 = 1 ∧ (swapB (1 <<< 15)).getLsbD 15 = true ∧ (16 / 8) % 3 = 2 ∧ (swapB (1 <<< 16)).getLsbD 0 = true ∧
    (71 / 8) % 3 = 2 ∧ (swapB (1 <<< 71)).getLsbD 55 = true := by decide +kernel

/-- Bits 23, 24, 47 and 48: where the three groups meet. -/
theorem witness_SwapLExchangesTheOuterGroups :
    (swapL (1 <<< 23)).getLsbD 71 = true ∧ (swapL (1 <<< 24)).getLsbD 24 = true ∧ (swapL (1 <<< 47)).getLsbD 47 = true ∧
    (swapL (1 <<< 48)).getLsbD 0 = true := by decide +kernel

theorem witness_EveryStageIsAPermutationAndItsOwnInverse :
    swapB ∈ [swap1, swap2, swap4, swapB, swapL] ∧ setBits 0xff0000000000000001#72 = 9 := by
  refine ⟨by simp, by decide +kernel⟩

/-- A fixed point and a single bit (V-S6, V-K1.71). -/
theorem witness_LawsOfTheReversal :
    (∀ i : Nat, i < 72 → (0x5a5a5a5a5a5a5a5a5a#72).getLsbD i = (0x5a5a5a5a5a5a5a5a5a#72).getLsbD (71 - i)) ∧
    fast ((1#72) <<< 71) = 1 ∧ (17 : Nat) < 18 ∧ (digitAt (fast 2) 0).getLsbD 2 = true ∧ (digitAt 2 17).getLsbD 1 = true := by
  decide +kernel

theorem witness_SplitHoldsOutTheTopByte :
    (splitTop (1 <<< 71)).getLsbD 7 = true ∧ (splitTop (1 <<< 64)).getLsbD 0 = true ∧ (splitLow (1 <<< 63)).getLsbD 63 = true := by
  decide +kernel

theorem witness_Bsw8ExchangesTheBytesOfEvery16Bits :
    (bsw8 1).getLsbD (0 ^^^ 8) = true ∧ (bsw8 (1 <<< 63)).getLsbD (63 ^^^ 8) = true := by decide +kernel

theorem witness_Bsw16ExchangesTheHalvesOfEvery32Bits :
    (bsw16 1).getLsbD (0 ^^^ 16) = true ∧ (bsw16 (1 <<< 63)).getLsbD (63 ^^^ 16) = true := by decide +kernel

/-- Byte 0 bit 0, and byte 7 bit 7. -/
theorem witness_Bsw32ExchangesTheHalvesAndEndsTheByteReversal :
    (bsw32 (1 <<< 63)).getLsbD (63 ^^^ 32) = true ∧ (bsw32 (bsw16 (bsw8 1))).getLsbD (8 * (7 - 0) + 0) = true ∧
    (bsw32 (bsw16 (bsw8 (1 <<< 63)))).getLsbD (8 * (7 - 7) + 7) = true := by decide +kernel

theorem witness_JoinPutsTheHeldOutByteAtTheBottom :
    (join 0 (1 <<< 7)).getLsbD 7 = true ∧ (join 1 0).getLsbD 8 = true ∧ (join (1 <<< 63) 0).getLsbD 71 = true := by decide +kernel

/-- Cells 0 and 35, and a bit beside each cell's two. -/
theorem witness_PcellDrivesItsTwoBits :
    (pcell 0 3 0).getLsbD 71 = true ∧ (pcell 0 3 0).getLsbD 70 = true ∧ (69 : Nat) ≠ 71 - 2 * 0 ∧ (69 : Nat) ≠ 70 - 2 * 0 ∧
    (pcell 35 0 (1 <<< 2)).getLsbD 2 = true ∧ (pcell 35 0 3).getLsbD 1 = false := by decide +kernel

/-! ### Witnesses: the verifier and faults -/

theorem witness_VerifyComparesBothReferences :
    sol.status = .run ∧ ((4 : Word) = 4 ∧ (4 : Word) = 4) ∧ ((5 : Word) ≠ 4 ∨ (4 : Word) ≠ 4) ∧ ((4 : Word) ≠ 4 ∨ (5 : Word) ≠ 4) := by
  decide

theorem witness_RevwordInFastModeDoesNotCheck :
    ({ sol with mode := 0 } : State).status = .run ∧ ({ sol with mode := 0 } : State).mode = 0 := by decide

theorem witness_RevwordInVerifiedModeCatchesUnequalUpsets :
    sol.status = .run ∧ sol.mode = 1 ∧ sol.upsetAgrees ∧ fullUpset.status = .run ∧ fullUpset.mode = 1 ∧ ¬ fullUpset.upsetAgrees := by
  decide +kernel

theorem witness_NoMismatchWithoutAnUpset :
    (full.withInput [.item .eos]).upsetNow = Upset.nominal ∧ full.cause ≠ 1 ∧
    (after (step (full.withInput [.item .eos]))).isSome = true ∧
    ({ fullUpset with mode := 0 } : State).mode = 0 ∧
    (after (step ({ fullUpset with mode := 0 }.withInput [.item .eos]))).isSome = true := by decide +kernel

theorem witness_FaultingStepsPutNothingOnOut :
    (fullUpset.withInput [.item .eos]).status = .run ∧
    (after (step (fullUpset.withInput [.item .eos]))).map (fun t => (t.status, t.cause)) = some (.fault, 1) ∧
    (sol.withInput [.item (.byte 0x0A#8)]).status = .run ∧
    (after (step (sol.withInput [.item (.byte 0x0A#8)]))).map (fun t => (t.status, t.cause)) = some (.fault, 2) := by decide +kernel

/-! ### Witnesses: the formatter -/

/-- The bytes on both sides of each class's ends. -/
theorem witness_RxsolByClass :
    sol.status = .run ∧ sol.lstate = .sol ∧ hexDec? 0x30#8 = some 0 ∧ hexDec? 0x39#8 = some 9 ∧ hexDec? 0x66#8 = some 15 ∧
    (hexDec? 0x2F#8 = none ∧ 0x2F#8 ≠ 0x40#8 ∧ 0x2F#8 ≠ 0x0A#8) ∧ hexDec? 0x3A#8 = none ∧ hexDec? 0x67#8 = none := by decide

theorem witness_RxhdrCopiesVerbatim :
    inHeader.status = .run ∧ inHeader.lstate = .hdr ∧ 0x0B#8 ≠ 0x0A#8 ∧ 0x40#8 ≠ 0x0A#8 := by decide

theorem witness_RxdataShiftsADigitIn :
    (inData 17 0xfffffffffffffffff#72).status = .run ∧ (inData 17 0xfffffffffffffffff#72).lstate = .data ∧
    (inData 17 0xfffffffffffffffff#72).ndig.val < 18 ∧ hexDec? 0x46#8 = some 15 ∧
    (inData 17 0xfffffffffffffffff#72).acc.toNat < 16 ^ (inData 17 0xfffffffffffffffff#72).ndig.val := by decide +kernel

/-- `NDIG` 18 and 17, for the statements on the end of a data line. -/
theorem witness_RxdataLineFeedEndsTheLine :
    full.status = .run ∧ full.lstate = .data ∧ full.ndig = 18 ∧ (inData 17 0).status = .run ∧ (inData 17 0).lstate = .data ∧
    (inData 17 0).ndig ≠ 18 ∧ (after (exec .word full)).map (·.status) = some .run := by decide +kernel

theorem witness_RxdataEndOfStreamEndsTheLine :
    full.ndig = 18 ∧ (after (exec .word full)).map (·.status) = some .run ∧
    (after (exec .word fullUpset)).map (·.status) = some .fault ∧ (inData 17 0).ndig ≠ 18 := by decide +kernel

theorem witness_RxdataRejectsA19thDigit :
    full.status = .run ∧ full.lstate = .data ∧ full.ndig = 18 ∧ hexDec? 0x30#8 = some 0 := by decide

theorem witness_RxdataRejectsAnyOtherByte :
    full.status = .run ∧ full.lstate = .data ∧ hexDec? 0x40#8 = none ∧ 0x40#8 ≠ 0x0A#8 ∧ hexDec? 0x0D#8 = none ∧ 0x0D#8 ≠ 0x0A#8 := by
  decide

theorem witness_WordEmitsTheCheckedWordOrNothing :
    full.status = .run ∧ full.lstate = .data ∧ full.ndig = 18 ∧ full.upsetAgrees ∧ ({ fullUpset with mode := 0 } : State).mode = 0 ∧
    fullUpset.mode = 1 ∧ ¬ fullUpset.upsetAgrees := by decide +kernel

theorem witness_EmitPutsALineFeedAfterEvery16th :
    sol.status = .run ∧ ({ sol with col := 14 } : State).col ≠ 15 ∧ ({ sol with col := 15 } : State).col = 15 := by decide

theorem witness_EmitwordSpellsAndWraps :
    ({ sol with col := 13 } : State).status = .run ∧ ({ sol with col := 13 } : State).col.toNat < 14 ∧
    14 ≤ ({ sol with col := 14 } : State).col.toNat ∧ 14 ≤ ({ sol with col := 15 } : State).col.toNat := by decide

theorem witness_HeaderLinesLeaveTheCounter :
    (after (exec (.rxhdr .eos) inHeader)).isSome = true ∧ (after (exec (.rxsol (.byte 0x40#8)) sol)).isSome = true ∧
    (after (exec (.hdr [] .eos) sol)).isSome = true := by decide +kernel

/-! ### Witnesses: the line level and encoding -/

theorem witness_HdrCopiesTheLine :
    sol.status = .run ∧ sol.lstate = .sol ∧ (0x0A#8) ∉ ([0x40#8, 0x0D#8] : List Byte) := by decide

theorem witness_DataProcessesALegalLine :
    sol.status = .run ∧ sol.lstate = .sol ∧ dataLineOk lineOne = true ∧
    ({ sol with upset := .listed [⟨0, 1, 0⟩] } : State).status = .run ∧
    (after (exec .word fullUpset)).map (·.status) = some .fault := by decide +kernel

/-- The empty line, 17 digits, a bad byte at position 18, and 19 digits. -/
theorem witness_DataRejectsAMalformedLine :
    sol.status = .run ∧ sol.lstate = .sol ∧ (isDataLine [] .lf = true ∧ dataLineOk [] = false) ∧
    (isDataLine (List.replicate 17 0x30#8) .eos = true ∧ dataLineOk (List.replicate 17 0x30#8) = false) ∧
    (isDataLine (List.replicate 18 0x30#8 ++ [0x0D#8]) .lf = true ∧ dataLineOk (List.replicate 18 0x30#8 ++ [0x0D#8]) = false ∧
      (List.replicate 18 0x30#8).all isHexDigit = true ∧ isHexDigit 0x0D#8 = false) ∧
    (isDataLine (List.replicate 19 0x30#8) .lf = true ∧ dataLineOk (List.replicate 19 0x30#8) = false) := by decide

theorem witness_LineLevelAgreesWithItemLevel :
    sol.status = .run ∧ sol.lstate = .sol ∧ (0x0A#8) ∉ lineOne ∧ (0x0A#8) ∉ ([0x40#8] : List Byte) ∧ (0x0A#8) ∉ ([] : List Byte) := by
  decide

/-- A data line, a header line in the middle, and a last header line ended by `EOS` (V-H2, V-H3). -/
theorem witness_DataLinesComeOutReversedInOrderAndRewrapped :
    Inv { sol with col := 14 } ∧ sol.status = .run ∧ sol.lstate = .sol ∧ (∀ k, sol.upset.draw k = Upset.nominal) ∧
    decodeLine lineOne .lf = .ok (.data lineOne .lf) ∧ decodeLine [0x40#8, 0x6D#8] .lf = .ok (.hdr [0x6D#8] .lf) ∧
    decodeLine [0x40#8] .eos = .ok (.hdr [] .eos) ∧ decodeLine lineOne .eos = .ok (.data lineOne .eos) ∧
    ∀ p ∈ [(lineOne, Term.lf), ([0x40#8, 0x6D#8], Term.lf), ([0x40#8], Term.eos)].dropLast, p.2 = Term.lf := by
  refine ⟨by decide, rfl, rfl, fun _ => rfl, rfl, rfl, rfl, rfl, by decide⟩

/-- The ends of the three ranges of digits. -/
theorem witness_HexDigitsDecodeAndEncode :
    (hexDec? 0x30#8 = some 0 ∧ hexDec? 0x39#8 = some 9) ∧ (hexDec? 0x41#8 = some 10 ∧ hexDec? 0x46#8 = some 15) ∧
    (hexDec? 0x61#8 = some 10 ∧ hexDec? 0x66#8 = some 15) ∧ hexEnc 9 = 0x39#8 ∧ hexEnc 10 = 0x61#8 ∧
    hexDec? 0x2F#8 = none ∧ hexDec? 0x3A#8 = none ∧ hexDec? 0x40#8 = none ∧ hexDec? 0x47#8 = none ∧ hexDec? 0x60#8 = none ∧
    hexDec? 0x67#8 = none := by decide

theorem witness_AssembledWordIsTheNumber :
    (List.replicate 18 (15 : Nibble)).length ≤ 18 ∧ assemble (List.replicate 18 15) = 0xffffffffffffffffff#72 := by decide +kernel

theorem witness_SpellingAWordAndAssemblingItAgree :
    (0 : Nat) < 18 ∧ (spell 0x0123456789abcdef01#72)[0]? = some 0x30#8 ∧ (spell 0x0123456789abcdef01#72)[17]? = some 0x31#8 := by
  decide +kernel

theorem witness_DecodeOfEncodeIsTheOperation :
    (Instr.hdr [0x78#8] .lf).wellFormed = true ∧ encode (.hdr [0x78#8] .lf) ≠ .wired ∧ encode (.hdr [0x78#8] .lf) ≠ .called ∧
    encodeBytes (.hdr [0x78#8] .lf) = some [0x40#8, 0x78#8, 0x0A#8] ∧
    encode (.hdr [0x78#8] .lf) = .line [0x40#8, 0x78#8] .lf ∧
    (Instr.data lineOne .eos).wellFormed = true ∧ encodeBytes (.data lineOne .eos) = some lineOne ∧
    encode (.data lineOne .eos) = .line lineOne .eos := by decide

theorem witness_OnlyLegalLinesDecode :
    decode (.line lineOne .lf) = .ok (.data lineOne .lf) ∧ decode (.item .data .eos) = .ok (.rxdata .eos) := by
  refine ⟨?_, ?_⟩ <;> rfl

end Sys2Proof.Tests
end

section
/-! SUPPORT. RESET as one operation: its next state in every state, and the status output of that state (70 R129, 10 R24). -/

namespace Sys2Proof.Machine

/-- 70 R129: RESET is enabled in every `STATUS` and its whole effect is the pure operation. -/
theorem exec_reset (m : Option (BitVec 1)) (s : State) : exec (.reset m) s = .next (resetElements m s) := rfl

/-- 10 R24: only a faulted run has a nonzero `EXIT`. -/
theorem State.exit_eq_zero {s : State} (h : s.status ≠ .fault) : s.exit = 0 := by
  unfold State.exit
  split
  case h_1 => rfl
  case h_2 => rfl
  case h_3 hf => exact absurd hf h

@[simp] theorem resetElements_exit (m : Option (BitVec 1)) (s : State) : (resetElements m s).exit = 0 :=
  State.exit_eq_zero (by simp)

/-! ### The reset table -/

/-- Settles O1: the next state is `resetElements m s`; `MODE` by the two levels of the strap, every other element by its lemma. -/
theorem resetGivesTheTable : Obligations.ResetGivesTheTable := by
  intro m s
  refine ⟨resetElements m s, exec_reset m s, ?mode, ?rest⟩
  case mode =>
    cases m with
    | none => exact resetElements_mode s none
    | some v => exact resetElements_mode s (some v)
  case rest => simp

end Sys2Proof.Machine
end

section
/-! SUPPORT. Characters, digits and the spelling of a Word (30 R45, R49 to R52). `hexDec?_eq_some_iff` says once what `HEXDEC` does;
the classes, the two ways between bytes and digits, and the reading of a spelling follow from it. -/

namespace Sys2Proof.Machine

/-! ### HEXDEC and HEXENC -/

/-- 30 R49: a byte has a value exactly in the three ranges of digits, and there it is the distance to the start of the range, from 10
on for letters. -/
theorem hexDec?_eq_some_iff {b : Byte} {d : Nibble} : hexDec? b = some d ↔
    ((0x30 ≤ b.toNat ∧ b.toNat ≤ 0x39) ∧ d.toNat = b.toNat - 0x30) ∨
    ((0x41 ≤ b.toNat ∧ b.toNat ≤ 0x46) ∧ d.toNat = b.toNat - 0x41 + 10) ∨
    ((0x61 ≤ b.toNat ∧ b.toNat ≤ 0x66) ∧ d.toNat = b.toNat - 0x61 + 10) := by
  unfold hexDec?
  split_ifs <;> simp only [Option.some.injEq, false_iff] <;> bv_omega

theorem exists_nibble_toNat_eq {v : Nat} (h : v < 16) : ∃ d : Nibble, d.toNat = v :=
  ⟨BitVec.ofNat 4 v, Nat.mod_eq_of_lt h⟩

theorem exists_hexDec?_of_decimal {b : Byte} (h : 0x30 ≤ b.toNat ∧ b.toNat ≤ 0x39) :
    ∃ d, hexDec? b = some d ∧ d.toNat = b.toNat - 0x30 := by
  obtain ⟨d, hd⟩ := exists_nibble_toNat_eq (v := b.toNat - 0x30) (by omega)
  exact ⟨d, hexDec?_eq_some_iff.2 (.inl ⟨h, hd⟩), hd⟩

theorem exists_hexDec?_of_upperCase {b : Byte} (h : 0x41 ≤ b.toNat ∧ b.toNat ≤ 0x46) :
    ∃ d, hexDec? b = some d ∧ d.toNat = b.toNat - 0x41 + 10 := by
  obtain ⟨d, hd⟩ := exists_nibble_toNat_eq (v := b.toNat - 0x41 + 10) (by omega)
  exact ⟨d, hexDec?_eq_some_iff.2 (.inr (.inl ⟨h, hd⟩)), hd⟩

theorem exists_hexDec?_of_lowerCase {b : Byte} (h : 0x61 ≤ b.toNat ∧ b.toNat ≤ 0x66) :
    ∃ d, hexDec? b = some d ∧ d.toNat = b.toNat - 0x61 + 10 := by
  obtain ⟨d, hd⟩ := exists_nibble_toNat_eq (v := b.toNat - 0x61 + 10) (by omega)
  exact ⟨d, hexDec?_eq_some_iff.2 (.inr (.inr ⟨h, hd⟩)), hd⟩

/-- 30 R45, R49: the bytes that have a value are those of the three ranges of digits. -/
theorem exists_hexDec?_eq_some_iff {b : Byte} : (∃ d, hexDec? b = some d) ↔
    (0x30 ≤ b.toNat ∧ b.toNat ≤ 0x39) ∨ (0x41 ≤ b.toNat ∧ b.toNat ≤ 0x46) ∨ (0x61 ≤ b.toNat ∧ b.toNat ≤ 0x66) := by
  constructor
  case mp =>
    rintro ⟨d, h⟩
    exact (hexDec?_eq_some_iff.1 h).imp And.left (Or.imp And.left And.left)
  case mpr =>
    rintro (h | h | h)
    · exact (exists_hexDec?_of_decimal h).imp fun _ => And.left
    · exact (exists_hexDec?_of_upperCase h).imp fun _ => And.left
    · exact (exists_hexDec?_of_lowerCase h).imp fun _ => And.left

/-- 30 R49: no value for any byte outside the three ranges. -/
theorem hexDec?_eq_none {b : Byte} (h1 : ¬ (0x30 ≤ b.toNat ∧ b.toNat ≤ 0x39)) (h2 : ¬ (0x41 ≤ b.toNat ∧ b.toNat ≤ 0x46))
    (h3 : ¬ (0x61 ≤ b.toNat ∧ b.toNat ≤ 0x66)) : hexDec? b = none := by
  refine Option.eq_none_iff_forall_ne_some.2 fun d hd => ?_
  rcases exists_hexDec?_eq_some_iff.1 ⟨d, hd⟩ with h | h | h
  · exact h1 h
  · exact h2 h
  · exact h3 h

theorem hexEnc_toNat_of_le {d : Nibble} (h : d.toNat ≤ 9) : (hexEnc d).toNat = 0x30 + d.toNat := by
  rw [hexEnc, if_pos (by bv_omega)]
  bv_omega

theorem hexEnc_toNat_of_ge {d : Nibble} (h : 10 ≤ d.toNat) : (hexEnc d).toNat = 0x61 + d.toNat - 10 := by
  rw [hexEnc, if_neg (by bv_omega)]
  bv_omega

@[simp] theorem hexDec?_hexEnc (d : Nibble) : hexDec? (hexEnc d) = some d := by
  rw [hexDec?_eq_some_iff]
  rcases Nat.lt_or_ge d.toNat 10 with h | h
  · have := hexEnc_toNat_of_le (Nat.le_of_lt_succ h)
    omega
  · have := hexEnc_toNat_of_ge h
    omega

/-- 30 R50: the spelling is lower-case, so it gives a digit's byte back unless that was an upper-case letter. -/
theorem hexEnc_eq_iff {b : Byte} {d : Nibble} (h : hexDec? b = some d) :
    hexEnc d = b ↔ ¬ (0x41 ≤ b.toNat ∧ b.toNat ≤ 0x46) := by
  rw [← BitVec.toNat_inj]
  rcases hexDec?_eq_some_iff.1 h with ⟨hr, hd⟩ | ⟨hr, hd⟩ | ⟨hr, hd⟩
  · have := hexEnc_toNat_of_le (d := d) (by omega)
    omega
  · have := hexEnc_toNat_of_ge (d := d) (by omega)
    omega
  · have := hexEnc_toNat_of_ge (d := d) (by omega)
    omega

/-! ### The classes -/

theorem classOf_eq_lf_iff {b : Byte} : classOf b = .lf ↔ b = Config.LF := by
  refine ⟨fun h => ?_, fun h => h ▸ classOf_lf⟩
  unfold classOf at h
  split_ifs at h with h1
  · exact h1
  · split at h <;> cases h

theorem classOf_eq_mark_iff {b : Byte} : classOf b = .mark ↔ b = Config.MARKER := by
  refine ⟨fun h => ?_, fun h => h ▸ classOf_marker⟩
  unfold classOf at h
  split_ifs at h with h1 h2
  · exact h2
  · split at h <;> cases h

theorem classOf_eq_hexDigit_iff {b : Byte} {d : Nibble} : classOf b = .hexDigit d ↔ hexDec? b = some d := by
  refine ⟨fun h => ?_, classOf_of_digit⟩
  unfold classOf at h
  split_ifs at h
  split at h <;> cases h
  assumption

/-! ### Spelling and reading back -/

/-- Bit `j` of the digit `y[71-4k : 68-4k]` (20 R33). -/
theorem digitAt_getLsbD (y : Word) (k : Nat) {j : Nat} (hj : j < 4) :
    (digitAt y k).getLsbD j = y.getLsbD (68 - 4 * k + j) := by
  simp [digitAt, hj]

theorem spell_getElem? (y : Word) {k : Nat} (hk : k < 18) : (spell y)[k]? = some (hexEnc (digitAt y k)) := by
  simp [spell, Config.NHEX, hk]

theorem leadingDigits_map_hexEnc (ds : List Nibble) : leadingDigits (ds.map hexEnc) = ds := by
  induction ds with
  | nil => rfl
  | cons d ds ih => simp [leadingDigits, ih]

theorem leadingDigits_spell (y : Word) : leadingDigits (spell y) = (List.range 18).map (digitAt y) := by
  have h : spell y = ((List.range 18).map (digitAt y)).map hexEnc := by simp [spell, Config.NHEX]
  rw [h, leadingDigits_map_hexEnc]

/-- Digit `n` shifted in behind the digits before it gives the first `n + 1` digits (30 R51, R52). -/
theorem pushDigit_ushiftRight_digitAt (y : Word) {n : Nat} (hn : n < 18) :
    pushDigit (y >>> (72 - 4 * n)) (digitAt y n) = y >>> (72 - 4 * (n + 1)) := by
  apply BitVec.eq_of_getLsbD_eq
  intro i hi
  rcases Nat.lt_or_ge i 4 with h | h
  · have hbit := digitAt_getLsbD y n h
    have hpos : 68 - 4 * n + i = 72 - 4 * (n + 1) + i := by omega
    simpa [pushDigit, h, hi, hpos] using hbit
  · have hpos : 72 - 4 * n + (i - 4) = 72 - 4 * (n + 1) + i := by omega
    simp [pushDigit, h, hi, hpos]

/-- The first `n` digits of a Word assemble to its upper `4n` bits. -/
theorem assemble_digits (y : Word) {n : Nat} (hn : n ≤ 18) :
    assemble ((List.range n).map (digitAt y)) = y >>> (72 - 4 * n) := by
  induction n with
  | zero => exact (BitVec.ushiftRight_eq_zero (Nat.le_refl 72)).symm
  | succ n ih =>
    rw [← pushDigit_ushiftRight_digitAt y hn, ← ih (by omega)]
    simp [assemble, List.range_succ]

theorem assemble_leadingDigits_spell (y : Word) : assemble (leadingDigits (spell y)) = y := by
  rw [leadingDigits_spell, assemble_digits y (Nat.le_refl 18)]
  simp

/-! ### The obligations -/

/-- Settles O56: byte `k` is the spelling of digit `k`; the digits read back shift in to the upper bits of the Word, one digit after the
other, until all 72 are there. -/
theorem spellingAWordAndAssemblingItAgree : Obligations.SpellingAWordAndAssemblingItAgree := by
  intro y
  refine ⟨spell_length y, fun k hk => ?digits, assemble_leadingDigits_spell y⟩
  case digits => exact ⟨digitAt y k, spell_getElem? y hk, fun _ => digitAt_getLsbD y k⟩

/-- Settles O54: LF and MARK by their one byte; HEXDIGIT is where `HEXDEC` has a value. -/
theorem everyByteHasOneClass : Obligations.EveryByteHasOneClass := by
  intro b
  refine ⟨classOf_eq_lf_iff, classOf_eq_mark_iff, ?hexDigit⟩
  case hexDigit => simp only [classOf_eq_hexDigit_iff, exists_hexDec?_eq_some_iff]

/-- Settles O55: the three ranges and the bytes outside them by what `HEXDEC` does; `HEXENC` by its two cases. -/
theorem hexDigitsDecodeAndEncode : Obligations.HexDigitsDecodeAndEncode :=
  ⟨fun _ hl hu => exists_hexDec?_of_decimal ⟨hl, hu⟩, fun _ hl hu => exists_hexDec?_of_upperCase ⟨hl, hu⟩,
    fun _ hl hu => exists_hexDec?_of_lowerCase ⟨hl, hu⟩, fun _ => hexDec?_eq_none, fun _ => hexEnc_toNat_of_le,
    fun _ => hexEnc_toNat_of_ge, hexDec?_hexEnc, fun _ _ => hexEnc_eq_iff⟩

end Sys2Proof.Machine
end

section
/-! SUPPORT. What it is for a function of Words to permute the bit positions by a map that is its own inverse (40 R60), what follows
from that alone, and the maps of the five stages and of FAST (40 R61 to R67). -/

namespace Sys2Proof.Machine

/-! ### Permutations of the bit positions -/

/-- 40 R60: `p` is a map of the positions `0..71` that is its own inverse, and bit `i` of a result of `f` is bit `p i` of the
operand. -/
structure PermutesBits (f : Word → Word) (p : Nat → Nat) : Prop where
  lt : ∀ i : Nat, i < 72 → p i < 72
  selfInverse : ∀ i : Nat, i < 72 → p (p i) = i
  bit : ∀ (x : Word) (i : Nat), i < 72 → (f x).getLsbD i = x.getLsbD (p i)

namespace PermutesBits

variable {f : Word → Word} {p : Nat → Nat}

/-- The map of the positions as a permutation of `Fin 72`. -/
def perm (h : PermutesBits f p) : Equiv.Perm (Fin 72) :=
  Function.Involutive.toPerm (fun i => ⟨p i, h.lt i i.isLt⟩) fun i => Fin.ext (h.selfInverse i i.isLt)

theorem perm_perm (h : PermutesBits f p) (i : Fin 72) : h.perm (h.perm i) = i :=
  Fin.ext (h.selfInverse i i.isLt)

theorem bit_moves (h : PermutesBits f p) (x : Word) (i : Nat) (hi : i < 72) : (f x).getLsbD (p i) = x.getLsbD i := by
  rw [h.bit x (p i) (h.lt i hi), h.selfInverse i hi]

theorem apply_apply (h : PermutesBits f p) (x : Word) : f (f x) = x :=
  BitVec.eq_of_getLsbD_eq fun i hi => by rw [h.bit (f x) i hi, h.bit_moves x i hi]

/-- The bits of `f x`, read at the positions in their permuted order, are those of `x`. -/
theorem setBits_apply (h : PermutesBits f p) (x : Word) : setBits (f x) = setBits x := by
  have hbits : (fun i : Fin 72 => (f x).getLsbD i) ∘ h.perm = fun i : Fin 72 => x.getLsbD i :=
    funext fun i => h.bit_moves x i i.isLt
  calc setBits (f x) = ((List.finRange 72).map h.perm).countP fun i : Fin 72 => (f x).getLsbD i :=
        (h.perm.map_finRange_perm.countP_eq _).symm
    _ = (List.finRange 72).countP ((fun i : Fin 72 => (f x).getLsbD i) ∘ h.perm) := List.countP_map
    _ = setBits x := by rw [hbits, setBits]

theorem apply_zero (h : PermutesBits f p) : f 0#72 = 0#72 :=
  BitVec.eq_of_getLsbD_eq fun i hi => by simp only [h.bit _ i hi, BitVec.getLsbD_zero]

theorem apply_allOnes (h : PermutesBits f p) : f (BitVec.allOnes 72) = BitVec.allOnes 72 :=
  BitVec.eq_of_getLsbD_eq fun i hi => by simp only [h.bit _ i hi, BitVec.getLsbD_allOnes, hi, h.lt i hi]

end PermutesBits

/-! ### The maps of the stages -/

/-- Exclusive or with a number below 8 moves a position inside its byte. -/
theorem xor_div_eight (i : Nat) {d : Nat} (hd : d < 8) : (i ^^^ d) / 8 = i / 8 := by
  have h := Nat.xor_div_two_pow (a := i) (b := d) (n := 3)
  have hd0 : d / 2 ^ 3 = 0 := Nat.div_eq_of_lt hd
  rwa [hd0, Nat.xor_zero] at h

/-- Exclusive or with 7 reverses the eight positions of a byte (40 R67). -/
theorem xor_seven (i : Nat) : i ^^^ 7 = 8 * (i / 8) + (7 - i % 8) := by
  have hdiv := xor_div_eight i (d := 7) (by decide)
  have hmod : (i ^^^ 7) % 8 = i % 8 ^^^ 7 := Nat.xor_mod_two_pow (n := 3)
  have hrev : ∀ r < 8, r ^^^ 7 = 7 - r := by decide
  rw [hrev _ (Nat.mod_lt i (by decide))] at hmod
  omega

/-- 40 R64: byte 0 and byte 2 of every 24-bit group change places. -/
def swapBPos (i : Nat) : Nat := i + 16 - 16 * ((i / 8) % 3)

theorem swapBPos_low {i : Nat} (h : (i / 8) % 3 = 0) : swapBPos i = i + 16 := by unfold swapBPos; omega
theorem swapBPos_middle {i : Nat} (h : (i / 8) % 3 = 1) : swapBPos i = i := by unfold swapBPos; omega
theorem swapBPos_high {i : Nat} (h : (i / 8) % 3 = 2) : swapBPos i = i - 16 := by unfold swapBPos; omega

/-- 40 R65: the outer two 24-bit groups change places. -/
def swapLPos (i : Nat) : Nat := i + 48 - 48 * (i / 24)

theorem swapLPos_low {i : Nat} (h : i ≤ 23) : swapLPos i = i + 48 := by unfold swapLPos; omega
theorem swapLPos_middle {i : Nat} (h1 : 24 ≤ i) (h2 : i ≤ 47) : swapLPos i = i := by unfold swapLPos; omega
theorem swapLPos_high {i : Nat} (h1 : 48 ≤ i) (h2 : i < 72) : swapLPos i = i - 48 := by unfold swapLPos; omega

theorem permutesBits_of_xor {f : Word → Word} {d : Nat} (hd : d < 8)
    (hbit : ∀ (x : Word) (i : Nat), i < 72 → (f x).getLsbD i = x.getLsbD (i ^^^ d)) : PermutesBits f (· ^^^ d) where
  lt i hi := by
    have := xor_div_eight i hd
    omega
  selfInverse i _ := Nat.xor_xor_cancel_right i d
  bit := hbit

theorem swap1_permutesBits : PermutesBits swap1 (· ^^^ 1) := permutesBits_of_xor (by decide) swap1_bit

theorem swap2_permutesBits : PermutesBits swap2 (· ^^^ 2) := permutesBits_of_xor (by decide) swap2_bit

theorem swap4_permutesBits : PermutesBits swap4 (· ^^^ 4) := permutesBits_of_xor (by decide) swap4_bit

theorem swapB_permutesBits : PermutesBits swapB swapBPos where
  lt i _ := by unfold swapBPos; omega
  selfInverse i _ := by unfold swapBPos; omega
  bit := swapB_bit

theorem swapL_permutesBits : PermutesBits swapL swapLPos where
  lt i _ := by unfold swapLPos; omega
  selfInverse i _ := by unfold swapLPos; omega
  bit := swapL_bit

theorem exists_permutesBits_of_mem_stages :
    ∀ stage ∈ [swap1, swap2, swap4, swapB, swapL], ∃ p, PermutesBits stage p := by
  simp only [List.forall_mem_cons, List.not_mem_nil, false_implies, implies_true, and_true]
  exact ⟨⟨_, swap1_permutesBits⟩, ⟨_, swap2_permutesBits⟩, ⟨_, swap4_permutesBits⟩, ⟨_, swapB_permutesBits⟩,
    ⟨_, swapL_permutesBits⟩⟩

/-! ### The composition -/

/-- 40 R67: with `i = 24 g + 8 r + n`, the three stages inside a byte send `n` to `7 - n`, SWAPB sends `r` to `2 - r` and SWAPL sends
`g` to `2 - g`, which is `i` to `71 - i`. -/
theorem stagePositions_compose {i : Nat} (hi : i < 72) :
    swapLPos (swapBPos (((i ^^^ 1) ^^^ 2) ^^^ 4)) = 71 - i := by
  have hxor : ((i ^^^ 1) ^^^ 2) ^^^ 4 = i ^^^ 7 := by simp only [Nat.xor_assoc, Nat.reduceXor]
  rw [hxor, xor_seven]
  unfold swapLPos swapBPos
  omega

/-- 40 R67: FAST meets the contract; each bit is followed through the five stages. -/
theorem fast_isReverse (x : Word) : IsReverse x (fast x) := by
  intro i hi
  have h1 := swap1_permutesBits.lt i hi
  have h2 := swap2_permutesBits.lt _ h1
  have h4 := swap4_permutesBits.lt _ h2
  have hB := swapB_permutesBits.lt _ h4
  rw [← stagePositions_compose hi]
  calc (fast x).getLsbD (swapLPos (swapBPos (((i ^^^ 1) ^^^ 2) ^^^ 4)))
      = (swapB (swap4 (swap2 (swap1 x)))).getLsbD (swapBPos (((i ^^^ 1) ^^^ 2) ^^^ 4)) :=
        swapL_permutesBits.bit_moves _ _ hB
    _ = (swap4 (swap2 (swap1 x))).getLsbD (((i ^^^ 1) ^^^ 2) ^^^ 4) := swapB_permutesBits.bit_moves _ _ h4
    _ = (swap2 (swap1 x)).getLsbD ((i ^^^ 1) ^^^ 2) := swap4_permutesBits.bit_moves _ _ h2
    _ = (swap1 x).getLsbD (i ^^^ 1) := swap2_permutesBits.bit_moves _ _ h1
    _ = x.getLsbD i := swap1_permutesBits.bit_moves x i hi

/-! ### The operations by themselves (40 R58; logs 7, 8) -/

section
variable (x : Word) (s : State)

theorem exec_swap1 : exec (.swap1 x) s = .next (s.setY (swap1 x)) := rfl
theorem exec_swap2 : exec (.swap2 x) s = .next (s.setY (swap2 x)) := rfl
theorem exec_swap4 : exec (.swap4 x) s = .next (s.setY (swap4 x)) := rfl
theorem exec_swapb : exec (.swapb x) s = .next (s.setY (swapB x)) := rfl
theorem exec_swapl : exec (.swapl x) s = .next (s.setY (swapL x)) := rfl
theorem exec_fast : exec (.fast x) s = .next (s.setY (fast x)) := rfl

end

/-! ### The obligations -/

/-- Settles O17: FAST is defined as the five stages in order, and `fast_isReverse` follows each bit to its mirror place. -/
theorem fastReversesTheBits : Obligations.FastReversesTheBits := fun x s =>
  ⟨fast x, exec_fast x s, rfl, fast_isReverse x⟩

/-- Settles O18: every stage permutes the bit positions by a map that is its own inverse; the rest follows from that alone. -/
theorem everyStageIsAPermutationAndItsOwnInverse : Obligations.EveryStageIsAPermutationAndItsOwnInverse := by
  intro stage hstage
  obtain ⟨p, h⟩ := exists_permutesBits_of_mem_stages stage hstage
  exact ⟨⟨h.perm, h.perm_perm, fun x i => h.bit_moves x i i.isLt⟩, fun x => ⟨h.apply_apply x, h.setBits_apply x⟩,
    h.apply_zero, h.apply_allOnes⟩

/-- Settles O12: the masks are checked bit by bit; the bit map is `swap1_permutesBits`. -/
theorem swap1ExchangesTheBitsOfEveryPair : Obligations.Swap1ExchangesTheBitsOfEveryPair := by
  intro x s
  refine ⟨swap1 x, exec_swap1 x s, rfl, rfl, ?mask, swap1_permutesBits.bit_moves x⟩
  case mask => decide

/-- Settles O13: the masks are checked bit by bit; the bit map is `swap2_permutesBits`. -/
theorem swap2ExchangesThePairsOfEveryNibble : Obligations.Swap2ExchangesThePairsOfEveryNibble := by
  intro x s
  refine ⟨swap2 x, exec_swap2 x s, rfl, rfl, ?mask, swap2_permutesBits.bit_moves x⟩
  case mask => decide

/-- Settles O14: the masks are checked bit by bit; the bit map is `swap4_permutesBits`. -/
theorem swap4ExchangesTheNibblesOfEveryByte : Obligations.Swap4ExchangesTheNibblesOfEveryByte := by
  intro x s
  refine ⟨swap4 x, exec_swap4 x s, rfl, rfl, ?mask, swap4_permutesBits.bit_moves x⟩
  case mask => decide

/-- Settles O15: the masks are checked bit by bit; the three cases of the bit map are those of `swapBPos`. -/
theorem swapBExchangesTheOuterBytesOfEveryGroup : Obligations.SwapBExchangesTheOuterBytesOfEveryGroup := by
  intro x s
  refine ⟨swapB x, exec_swapb x s, rfl, ?masks, fun i hi => ?bits⟩
  case masks => decide
  case bits =>
    have hmove := swapB_permutesBits.bit_moves x i hi
    refine ⟨fun h => ?low, fun h => ?middle, fun h => ?high⟩
    case low => rwa [swapBPos_low h] at hmove
    case middle => rwa [swapBPos_middle h] at hmove
    case high => rwa [swapBPos_high h] at hmove

/-- Settles O16: the masks are checked bit by bit; the three cases of the bit map are those of `swapLPos`. -/
theorem swapLExchangesTheOuterGroups : Obligations.SwapLExchangesTheOuterGroups := by
  intro x s
  refine ⟨swapL x, exec_swapl x s, rfl, ?masks, fun i hi => ?bits⟩
  case masks => decide
  case bits =>
    have hmove := swapL_permutesBits.bit_moves x i hi
    refine ⟨fun h => ?low, fun h1 h2 => ?middle, fun h => ?high⟩
    case low => rwa [swapLPos_low h] at hmove
    case middle => rwa [swapLPos_middle h1 h2] at hmove
    case high => rwa [swapLPos_high h hi] at hmove

end Sys2Proof.Machine
end

section
/-! SUPPORT. The special path: where each bit goes through SPLIT, the three swaps of 41 R72 to R74, JOIN and the three stages inside a
byte (41 R71 to R78). -/

namespace Sys2Proof.Machine

/-! ### The operations by themselves (41 R70; logs 7, 8) -/

section
variable (x : Word) (w : Low64) (t : Byte) (s : State)

theorem exec_split : exec (.split x) s = .next ((s.setW (splitLow x)).setT (splitTop x)) := rfl
theorem exec_bsw8 : exec (.bsw8 w) s = .next (s.setW (bsw8 w)) := rfl
theorem exec_bsw16 : exec (.bsw16 w) s = .next (s.setW (bsw16 w)) := rfl
theorem exec_bsw32 : exec (.bsw32 w) s = .next (s.setW (bsw32 w)) := rfl
theorem exec_join : exec (.join w t) s = .next (s.setY (join w t)) := rfl
theorem exec_special : exec (.special x) s = .next (s.setY (special x)) := rfl

end

/-! ### The three swaps of the low 64 bits -/

/-- A swap that reads bit `j` at `j xor d` sends bit `i` to `i xor d`. -/
theorem bit_moves_of_xor {f : Low64 → Low64} {d : Nat} (hd : d < 64)
    (hbit : ∀ (w : Low64) (j : Nat), j < 64 → (f w).getLsbD j = w.getLsbD (j ^^^ d)) (w : Low64) (i : Nat) (hi : i < 64) :
    (f w).getLsbD (i ^^^ d) = w.getLsbD i := by
  rw [hbit w _ (Nat.xor_lt_two_pow (n := 6) hi hd), Nat.xor_xor_cancel_right]

theorem bsw8_bit_moves (w : Low64) (i : Nat) (hi : i < 64) : (bsw8 w).getLsbD (i ^^^ 8) = w.getLsbD i :=
  bit_moves_of_xor (by decide) bsw8_bit w i hi

theorem bsw16_bit_moves (w : Low64) (i : Nat) (hi : i < 64) : (bsw16 w).getLsbD (i ^^^ 16) = w.getLsbD i :=
  bit_moves_of_xor (by decide) bsw16_bit w i hi

theorem bsw32_bit_moves (w : Low64) (i : Nat) (hi : i < 64) : (bsw32 w).getLsbD (i ^^^ 32) = w.getLsbD i :=
  bit_moves_of_xor (by decide) bsw32_bit w i hi

/-- 41 R74: exclusive or with 8, 16 and 32 takes byte `j` to byte `7 - j` and keeps the place in the byte. -/
theorem xor_byteSwaps {j n : Nat} (hj : j < 8) (hn : n < 8) : (((8 * j + n) ^^^ 8) ^^^ 16) ^^^ 32 = 8 * (7 - j) + n := by
  have hxor : (((8 * j + n) ^^^ 8) ^^^ 16) ^^^ 32 = (8 * j + n) ^^^ 56 := by simp only [Nat.xor_assoc, Nat.reduceXor]
  have hbyte : ((8 * j + n) ^^^ 56) / 8 = (8 * j + n) / 8 ^^^ 7 := Nat.xor_div_two_pow (n := 3)
  have hplace : ((8 * j + n) ^^^ 56) % 8 = (8 * j + n) % 8 ^^^ 0 := Nat.xor_mod_two_pow (n := 3)
  rw [xor_seven] at hbyte
  rw [Nat.xor_zero] at hplace
  omega

/-- 41 R74: the bytes after the three swaps. -/
theorem byteSwaps_byte (w : Low64) {j n : Nat} (hj : j < 8) (hn : n < 8) :
    (bsw32 (bsw16 (bsw8 w))).getLsbD (8 * (7 - j) + n) = w.getLsbD (8 * j + n) := by
  have h0 : 8 * j + n < 64 := by omega
  have h8 : (8 * j + n) ^^^ 8 < 64 := Nat.xor_lt_two_pow (n := 6) h0 (by decide)
  have h16 : ((8 * j + n) ^^^ 8) ^^^ 16 < 64 := Nat.xor_lt_two_pow (n := 6) h8 (by decide)
  rw [← xor_byteSwaps hj hn, bsw32_bit_moves _ _ h16, bsw16_bit_moves _ _ h8, bsw8_bit_moves _ _ h0]

/-! ### SPLIT and JOIN around them -/

theorem join_low (w : Low64) (t : Byte) {i : Nat} (hi : i < 8) : (join w t).getLsbD i = t.getLsbD i := by
  rw [join_bit, if_pos hi]

theorem join_high (w : Low64) (t : Byte) (i : Nat) : (join w t).getLsbD (8 + i) = w.getLsbD i := by
  rw [join_bit, if_neg (by omega), Nat.add_sub_cancel_left]

/-- 41 R75: the rule's other form of `{ w3, t }`. -/
theorem join_eq_shift_or (w : Low64) (t : Byte) : join w t = (w.setWidth 72 <<< 8) ||| t.setWidth 72 := by
  refine BitVec.eq_of_getLsbD_eq fun i hi => ?_
  rw [join_bit]
  split_ifs with hlow
  case pos => simp [hlow, hi]
  case neg =>
    have ht : t.getLsbD i = false := BitVec.getLsbD_of_ge t i (by omega)
    simp [hlow, hi, ht]

/-- 41 R75: the nine bytes after JOIN are in the reverse order; the held-out byte is the last one of `x` and the first one here. -/
theorem splitSwapJoin_byte (x : Word) {b n : Nat} (hb : b < 9) (hn : n < 8) :
    (join (bsw32 (bsw16 (bsw8 (splitLow x)))) (splitTop x)).getLsbD (8 * (8 - b) + n) = x.getLsbD (8 * b + n) := by
  rcases Nat.lt_or_ge b 8 with h | h
  case inl =>
    have hpos : 8 * (8 - b) + n = 8 + (8 * (7 - b) + n) := by omega
    rw [hpos, join_high, byteSwaps_byte _ h hn, splitLow_bit x _ (by omega)]
  case inr =>
    obtain rfl : b = 8 := by omega
    have hpos : 8 * (8 - 8) + n = n := by omega
    rw [hpos, join_low _ _ hn, splitTop_bit x n hn]

/-! ### The whole chain -/

/-- 41 R76: the three stages inside a byte, in the order of SPECIAL. -/
theorem subByteSwaps_bit_moves (z : Word) {i : Nat} (hi : i < 72) :
    (swap1 (swap2 (swap4 z))).getLsbD (i ^^^ 7) = z.getLsbD i := by
  have hxor : i ^^^ 7 = ((i ^^^ 4) ^^^ 2) ^^^ 1 := by simp only [Nat.xor_assoc, Nat.reduceXor]
  have h4 := swap4_permutesBits.lt i hi
  have h2 := swap2_permutesBits.lt _ h4
  calc (swap1 (swap2 (swap4 z))).getLsbD (i ^^^ 7)
      = (swap1 (swap2 (swap4 z))).getLsbD (((i ^^^ 4) ^^^ 2) ^^^ 1) := by rw [hxor]
    _ = (swap2 (swap4 z)).getLsbD ((i ^^^ 4) ^^^ 2) := swap1_permutesBits.bit_moves _ _ h2
    _ = (swap4 z).getLsbD (i ^^^ 4) := swap2_permutesBits.bit_moves _ _ h4
    _ = z.getLsbD i := swap4_permutesBits.bit_moves z i hi

/-- 41 R78: with `i = 8 b + n`, the chain up to JOIN sends `b` to `8 - b` and the three stages after it send `n` to `7 - n`, which is
`i` to `71 - i`. -/
theorem special_isReverse (x : Word) : IsReverse x (special x) := by
  intro i hi
  have hpos : 71 - i = (8 * (8 - i / 8) + i % 8) ^^^ 7 := by
    rw [xor_seven]
    omega
  have hbyte := splitSwapJoin_byte x (b := i / 8) (n := i % 8) (by omega) (by omega)
  rw [hpos, special, subByteSwaps_bit_moves _ (by omega), hbyte, Nat.div_add_mod]

/-! ### The obligations -/

/-- Settles O25: SPECIAL is defined as the chain, and `special_isReverse` follows each bit to its mirror place. -/
theorem specialReversesTheBits : Obligations.SpecialReversesTheBits := fun x s =>
  ⟨special x, exec_special x s, rfl, special_isReverse x⟩

/-- Settles O20: the two results bit by bit. -/
theorem splitHoldsOutTheTopByte : Obligations.SplitHoldsOutTheTopByte := fun x s =>
  ⟨splitTop x, splitLow x, exec_split x s, splitTop_bit x, splitLow_bit x⟩

/-- Settles O21: BSW8 is defined by the formula; the bit map is `bsw8_bit_moves`. -/
theorem bsw8ExchangesTheBytesOfEvery16Bits : Obligations.Bsw8ExchangesTheBytesOfEvery16Bits := fun w s =>
  ⟨bsw8 w, exec_bsw8 w s, rfl, bsw8_bit_moves w⟩

/-- Settles O22: BSW16 is defined by the formula; the bit map is `bsw16_bit_moves`. -/
theorem bsw16ExchangesTheHalvesOfEvery32Bits : Obligations.Bsw16ExchangesTheHalvesOfEvery32Bits := fun w s =>
  ⟨bsw16 w, exec_bsw16 w s, rfl, bsw16_bit_moves w⟩

/-- Settles O23: BSW32 is defined by the formula; the bytes after the three swaps are those of `byteSwaps_byte`. -/
theorem bsw32ExchangesTheHalvesAndEndsTheByteReversal : Obligations.Bsw32ExchangesTheHalvesAndEndsTheByteReversal := fun w s =>
  ⟨bsw32 w, exec_bsw32 w s, rfl, bsw32_bit_moves w, fun _ _ => byteSwaps_byte w⟩

/-- Settles O24: JOIN is the concatenation, whose two parts stand in the two ranges of bits; the nine bytes are those of
`splitSwapJoin_byte`. -/
theorem joinPutsTheHeldOutByteAtTheBottom : Obligations.JoinPutsTheHeldOutByteAtTheBottom :=
  ⟨fun w t s => ⟨join w t, exec_join w t s, join_eq_shift_or w t, fun _ => join_low w t, fun i _ => join_high w t i⟩,
    fun x _ _ => splitSwapJoin_byte x⟩

end Sys2Proof.Machine
end

section
/-! SUPPORT. The normal path: the two result bits of each cell, and what the 36 cells make of a Word (41 R79 to R81). -/

namespace Sys2Proof.Machine

theorem exec_normal (x : Word) (s : State) : exec (.normal x) s = .next (s.setY (normal x)) := rfl

/-! ### One cell -/

section
variable (x : Word) {j : Nat} (hj : j < 72)
include hj

/-- 41 R79: the two bits of cell `k` are those of pair `35 - k` of the result, each the mirror bit of the operand. -/
theorem cell_getLsbD {k : Nat} (hk : k < 36) :
    (cell k x).getLsbD j = (decide (j / 2 = 35 - k) && x.getLsbD (71 - j)) := by
  rw [cell_bit k hk x j hj]
  split_ifs with hodd heven
  · have hpair : j / 2 = 35 - k := by omega
    have hmirror : 71 - j = 2 * k := by omega
    simp [hpair, hmirror]
  · have hpair : j / 2 = 35 - k := by omega
    have hmirror : 71 - j = 2 * k + 1 := by omega
    simp [hpair, hmirror]
  · have hpair : j / 2 ≠ 35 - k := by omega
    simp [hpair]

/-- 41 R79: the driven bits are those of pair `35 - k`. -/
theorem cellMask_getLsbD {k : Nat} (hk : k < 36) : (cellMask k).getLsbD j = decide (j / 2 = 35 - k) := by
  have hones : cellMask k = (BitVec.allOnes 2).setWidth 72 <<< (70 - 2 * k) := rfl
  rw [hones, BitVec.getLsbD_shiftLeft, BitVec.getLsbD_setWidth, BitVec.getLsbD_allOnes, Bool.eq_iff_iff]
  simp only [Bool.and_eq_true, Bool.not_eq_true', decide_eq_true_eq, decide_eq_false_iff_not]
  omega

theorem pcell_getLsbD (k : Fin 36) (r : Word) :
    (pcell k x r).getLsbD j = if j / 2 = 35 - k.val then x.getLsbD (71 - j) else r.getLsbD j := by
  rw [pcell, BitVec.getLsbD_or, BitVec.getLsbD_and, BitVec.getLsbD_not, cellMask_getLsbD hj k.isLt, cell_getLsbD x hj k.isLt]
  split_ifs with hpair <;> simp [hpair, hj]

/-! ### The cells together -/

/-- 41 R80: the pairs of any list of cells, put together on `r`. -/
theorem foldl_cell_getLsbD (ks : List Nat) (hks : ∀ k ∈ ks, k < 36) (r : Word) :
    (ks.foldl (fun acc k => acc ||| cell k x) r).getLsbD j =
      (r.getLsbD j || (ks.any (fun k => j / 2 = 35 - k) && x.getLsbD (71 - j))) := by
  induction ks generalizing r with
  | nil => simp
  | cons k ks ih =>
    obtain ⟨hk, hrest⟩ := List.forall_mem_cons.1 hks
    rw [List.foldl_cons, ih hrest, BitVec.getLsbD_or, cell_getLsbD x hj hk, List.any_cons, Bool.and_or_distrib_right,
      Bool.or_assoc]

/-- 41 R79: a bit that one of the cells drives, or that held its mirror bit before, holds it after them. -/
theorem foldl_pcell_getLsbD (ks : List (Fin 36)) (r : Word)
    (h : (∃ k ∈ ks, j / 2 = 35 - k.val) ∨ r.getLsbD j = x.getLsbD (71 - j)) :
    (ks.foldl (fun acc k => pcell k x acc) r).getLsbD j = x.getLsbD (71 - j) := by
  induction ks generalizing r with
  | nil => simpa using h
  | cons k ks ih =>
    refine ih _ ?_
    rw [pcell_getLsbD x hj]
    by_cases hk : j / 2 = 35 - k.val
    case pos => exact .inr (if_pos hk)
    case neg => simpa [hk] using h

/-- 41 R81: bit `j` is driven by cell `35 - j / 2`. -/
theorem normal_getLsbD : (normal x).getLsbD j = x.getLsbD (71 - j) := by
  have hdriven : (List.range 36).any (fun k => j / 2 = 35 - k) = true :=
    List.any_eq_true.2 ⟨35 - j / 2, List.mem_range.2 (by omega), by simp; omega⟩
  rw [normal, foldl_cell_getLsbD x hj _ (fun _ => List.mem_range.1), hdriven]
  simp

end

theorem normal_isReverse (x : Word) : IsReverse x (normal x) := by
  intro i hi
  rw [normal_getLsbD x (by omega), Nat.sub_sub_self (by omega)]

/-- 41 R80: each of the 72 bits is driven by one of the 36 cells, so nothing of what the wires held is left. -/
theorem foldl_pcell_eq_normal (x r : Word) : (List.finRange 36).foldl (fun acc k => pcell k x acc) r = normal x := by
  refine BitVec.eq_of_getLsbD_eq fun j hj => ?_
  have hdriven : ∃ k ∈ List.finRange 36, j / 2 = 35 - k.val :=
    ⟨⟨35 - j / 2, by omega⟩, List.mem_finRange _, by simp only; omega⟩
  rw [foldl_pcell_getLsbD x hj _ r (.inl hdriven), normal_getLsbD x hj]

/-! ### The obligation -/

/-- Settles O27: every bit of the result is the mirror bit of the operand, whether the cells are put together on zero or drive wires
that held anything. -/
theorem normalIsThe36CellsAndReversesTheBits : Obligations.NormalIsThe36CellsAndReversesTheBits := fun x s =>
  ⟨normal x, exec_normal x s, normal_isReverse x, foldl_pcell_eq_normal x⟩

end Sys2Proof.Machine
end

section
/-! SUPPORT. The verifier: the three paths carry one Word, so what decides a check is the draw of `UPSET` alone (42 R83 to R92). -/

namespace Sys2Proof.Machine

/-! ### The paths (42 R83, R91) -/

/-- 40 R67: the contract fixes all 72 bits, so two Words that meet it are one. -/
theorem IsReverse.unique {x y z : Word} (hy : IsReverse x y) (hz : IsReverse x z) : y = z := by
  refine BitVec.eq_of_getLsbD_eq fun j hj => ?_
  have hj' : 71 - (71 - j) = j := by omega
  rw [← hj', hy _ (by omega), hz _ (by omega)]

theorem special_eq_fast (x : Word) : special x = fast x := (special_isReverse x).unique (fast_isReverse x)

theorem normal_eq_fast (x : Word) : normal x = fast x := (normal_isReverse x).unique (fast_isReverse x)

/-- 42 R92: the path values differ exactly where the draws do. -/
theorem pathS_eq_pathF_iff (s : State) (x : Word) : pathS s x = pathF s x ↔ s.upsetNow.s = s.upsetNow.f := by
  rw [pathS, pathF, special_eq_fast, BitVec.xor_right_inj]

theorem pathN_eq_pathF_iff (s : State) (x : Word) : pathN s x = pathF s x ↔ s.upsetNow.n = s.upsetNow.f := by
  rw [pathN, pathF, normal_eq_fast, BitVec.xor_right_inj]

/-! ### The check (42 R84, R85) -/

theorem verify_self (yf : Word) : verify yf yf yf = .ok yf := (verify_ok_iff _ _ _ _).2 ⟨rfl, rfl, rfl⟩

theorem verify_of_ne {yf ys yn : Word} (h : ys ≠ yf ∨ yn ≠ yf) :
    verify yf ys yn = .error (.verifyMismatch (vinfoOf yf ys yn)) := by
  cases hv : verify yf ys yn with
  | ok y =>
    obtain ⟨hs, hn, -⟩ := (verify_ok_iff _ _ _ _).1 hv
    exact absurd h (by simp [hs, hn])
  | error f => rw [(verify_error hv).1]

/-- 10 R22: the special path's comparator is bit 0. -/
theorem vinfoOf_bit_zero (yf ys yn : Word) : (vinfoOf yf ys yn).getLsbD 0 = (ys != yf) := by
  have hlow : ∀ m n : Bool, (BitVec.ofBool n ++ BitVec.ofBool m).getLsbD 0 = m := by decide
  exact hlow _ _

/-- 10 R22: the normal path's comparator is bit 1. -/
theorem vinfoOf_bit_one (yf ys yn : Word) : (vinfoOf yf ys yn).getLsbD 1 = (yn != yf) := by
  have hhigh : ∀ m n : Bool, (BitVec.ofBool n ++ BitVec.ofBool m).getLsbD 1 = n := by decide
  exact hhigh _ _

/-! ### The kernel call (42 R87) -/

/-- 42 R92 items 1 and 2, and R86: with agreeing draws, or in fast mode, the fast path's value goes on. -/
theorem revword_of_agrees {s : State} (h : s.mode = 1 → s.upsetAgrees) (x : Word) : revword s x = .ok (pathF s x) := by
  unfold revword
  split
  case isTrue hm =>
    obtain ⟨hs, hn⟩ := h hm
    rw [(pathS_eq_pathF_iff s x).2 hs, (pathN_eq_pathF_iff s x).2 hn, verify_self]
  case isFalse => rfl

/-- 42 R92 item 3: in verified mode a reference whose draw differs from the fast path's is caught. -/
theorem revword_of_not_agrees {s : State} (hm : s.mode = 1) (h : ¬ s.upsetAgrees) (x : Word) :
    revword s x = .error (.verifyMismatch (vinfoOf (pathF s x) (pathS s x) (pathN s x))) := by
  have hne : pathS s x ≠ pathF s x ∨ pathN s x ≠ pathF s x := by
    rwa [Ne, Ne, pathS_eq_pathF_iff, pathN_eq_pathF_iff, ← not_and_or]
  rw [revword, if_pos hm, verify_of_ne hne]

theorem exec_pass (yf : Word) (s : State) : exec (.pass yf) s = .next (s.setY yf) := rfl

/-! ### The obligations -/

/-- Settles O29: the check passes two equal references and raises otherwise, with the comparators' bits at their places. -/
theorem verifyComparesBothReferences : Obligations.VerifyComparesBothReferences := by
  intro yf ys yn s hr
  rw [exec_verify hr]
  constructor
  · rintro rfl rfl
    rw [verify_self]
    rfl
  · intro hne
    rw [verify_of_ne hne]
    exact ⟨_, vinfoOf_bit_zero yf ys yn, vinfoOf_bit_one yf ys yn, rfl⟩

/-- Settles O30: PASS is its operand, on the result wires. -/
theorem passGivesTheFastValue : Obligations.PassGivesTheFastValue := exec_pass

/-- Settles O31: fast mode is the case of `revword_of_agrees` in which the draws are not asked about. -/
theorem revwordInFastModeDoesNotCheck : Obligations.RevwordInFastModeDoesNotCheck := by
  intro x s hr hm
  have hfast : s.mode = 1 → s.upsetAgrees := by simp [hm]
  rw [exec_revword hr, revword_of_agrees hfast]
  rfl

/-- Settles O32: the draws decide, since the three paths agree before `UPSET` is put on them. -/
theorem revwordInVerifiedModeCatchesUnequalUpsets : Obligations.RevwordInVerifiedModeCatchesUnequalUpsets := by
  intro x s hr hm
  rw [exec_revword hr]
  constructor
  · intro hagree
    rw [revword_of_agrees fun _ => hagree]
    exact ⟨fast x, fast_isReverse x, rfl⟩
  · intro hdiffer
    rw [revword_of_not_agrees hm hdiffer]
    refine ⟨_, ?_, ?_, rfl⟩
    · rw [vinfoOf_bit_zero, Bool.eq_iff_iff, bne_iff_ne, bne_iff_ne, Ne, pathS_eq_pathF_iff]
    · rw [vinfoOf_bit_one, Bool.eq_iff_iff, bne_iff_ne, bne_iff_ne, Ne, pathN_eq_pathF_iff]

end Sys2Proof.Machine
end

section
/-! SUPPORT. What the operations a step reaches can make of `CAUSE` while the three draws agree or `MODE` is 0: no mismatch (42 R86, R91). -/

namespace Sys2Proof.Machine

/-! ### With agreeing draws, or in fast mode -/

section
variable {s : State} (h : s.mode = 1 → s.upsetAgrees)
include h

theorem wordOp_of_agrees : wordOp s = .ok { s with
    widx := s.widx + 1, out := s.out ++ wrapped s.col (spell (pathF s s.acc)), col := s.col + 2,
    acc := 0, ndig := 0, lstate := .sol } := by
  refine (wordOp_cases s).resolve_right ?_
  rintro ⟨v, -, -, hv⟩
  simp [wordOp, revword_of_agrees h] at hv

theorem orRaise_wordOp_cause : (orRaise s (wordOp s)).cause = s.cause := by
  rw [wordOp_of_agrees h, orRaise]

theorem orRaise_lastWordOp_cause : (orRaise s (lastWordOp s)).cause = s.cause := by
  rw [lastWordOp, wordOp_of_agrees h, orRaise]

theorem rxData_cause (it : Item) : (rxData it s).cause = s.cause ∨ (rxData it s).cause = 2 := by
  unfold rxData rxDigit
  cases it with
  | eos =>
    simp only
    split_ifs
    · exact .inl (orRaise_lastWordOp_cause h)
    · exact .inr rfl
  | byte b =>
    cases hb : classOf b <;> simp only [hb]
    case lf =>
      split_ifs
      · exact .inl (orRaise_wordOp_cause h)
      · exact .inr rfl
    case hexDigit d =>
      split_ifs
      · exact .inl rfl
      · exact .inr rfl
    case mark => exact .inr rfl
    case other => exact .inr rfl

theorem dataLine_cause (line : List Byte) (tm : Term) :
    (dataLine line tm s).cause = s.cause ∨ (dataLine line tm s).cause = 2 := by
  cases hl : lineError line with
  | some e => exact .inr (by rw [dataLine_of_malformed hl, raise_inputFormat_cause])
  | none =>
    obtain ⟨acc, ndig, lstate, hd⟩ := acceptDigits_keeps (leadingDigits line) 18 s
    rw [dataLine_of_legal hl, hd]
    cases tm with
    | lf => exact .inl (orRaise_wordOp_cause h)
    | eos => exact .inl (orRaise_lastWordOp_cause h)

end

/-! ### Whatever the draws are -/

theorem rxSol_cause (it : Item) (s : State) : (rxSol it s).cause = s.cause ∨ (rxSol it s).cause = 2 := by
  unfold rxSol
  cases it with
  | eos => exact .inl rfl
  | byte b => cases hb : classOf b <;> simp [hb]

theorem rxHdr_cause (it : Item) (s : State) : (rxHdr it s).cause = s.cause := by
  unfold rxHdr
  cases it with
  | eos => rfl
  | byte b => simp only; split_ifs <;> rfl

theorem hdrLine_cause (payload : List Byte) (tm : Term) (s : State) : (hdrLine payload tm s).cause = s.cause := by
  cases tm <;> rfl

/-! ### A step -/

/-- 60 R113, R116: with agreeing draws, or in fast mode, a step's only fault is `INPUT_FORMAT`. -/
theorem step_cause {s t : State} (h : s.mode = 1 → s.upsetAgrees) (hst : step s = .next t) :
    t.cause = s.cause ∨ t.cause = 0 ∨ t.cause = 2 := by
  have hin (evs : List HostEvent) : (s.withInput evs).mode = 1 → (s.withInput evs).upsetAgrees := h
  have hkeep {c : BitVec 2} (hc : c = s.cause ∨ c = 2) : c = s.cause ∨ c = 0 ∨ c = 2 := hc.imp_right .inr
  obtain ⟨ev, rest, -, ⟨m, -, rfl⟩ | ⟨-, ⟨it, -, hit⟩ | ⟨line, tm, -, -, hline⟩⟩⟩ := step_next hst
  · exact .inr (.inl rfl)
  · obtain ⟨-, rfl⟩ | ⟨-, rfl⟩ | ⟨-, rfl⟩ := hit
    · exact hkeep (rxSol_cause it _)
    · exact .inl (rxHdr_cause it _)
    · exact hkeep (rxData_cause (hin rest) it)
  · obtain ⟨-, -, rfl⟩ | ⟨payload, -, -, rfl⟩ | ⟨-, rfl⟩ := hline
    · exact hkeep (rxSol_cause .eos _)
    · exact .inl (hdrLine_cause payload tm _)
    · exact hkeep (dataLine_cause (hin rest) line tm)

/-! ### The obligation -/

/-- Settles O33: either premise makes the draws agree as far as `MODE` asks, and then a step leaves `CAUSE`, clears it, or makes it 2. -/
theorem noMismatchWithoutAnUpset : Obligations.NoMismatchWithoutAnUpset := by
  intro s t hquiet hcause hst
  have hagree : s.mode = 1 → s.upsetAgrees := by
    rcases hquiet with hnominal | hfast
    · rw [State.upsetAgrees, hnominal]
      exact fun _ => ⟨rfl, rfl⟩
    · simp [hfast]
  rcases step_cause hagree hst with hc | hc | hc
  · rwa [hc]
  · simp [hc]
  · simp [hc]

end Sys2Proof.Machine
end

section
/-! SUPPORT. DATA of a legal line against WORD on its digits (43 R98, R101, R107). -/

namespace Sys2Proof.Machine

theorem acceptDigits_of_legal {line : List Byte} (h : lineError line = none) (s : State) :
    acceptDigits (leadingDigits line) 18 s = { s with acc := assemble (leadingDigits line), ndig := 18, lstate := .data } := by
  rw [acceptDigits, if_neg (by decide), List.take_of_length_le (leadingDigits_of_legal h).le]
  rfl

/-- 43 R98: the last Word ends the run, unless it faulted. -/
theorem orRaise_lastWordOp (s : State) (hr : s.status = .run) :
    orRaise s (lastWordOp s) =
      if (orRaise s (wordOp s)).status = .fault then orRaise s (wordOp s)
      else { orRaise s (wordOp s) with status := .done } := by
  rcases wordOp_cases s with hw | ⟨v, -, -, hw⟩
  · simp [lastWordOp, hw, orRaise, hr]
  · simp [lastWordOp, hw, orRaise]

/-- Settles O50: the line's 18 digits are in `ACC` when its Word begins, and the line's end is `orRaise_lastWordOp` for `EOS` and
nothing more for LF. -/
theorem dataProcessesALegalLine : Obligations.DataProcessesALegalLine := by
  intro line tm s hr hl hok
  have hlegal := (lineError_none_iff line).2 hok
  rw [exec_data hr hl (isDataLine_of_legal hok tm), dataLine_of_legal hlegal, acceptDigits_of_legal hlegal]
  generalize hw : ({ s with acc := assemble (leadingDigits line), ndig := 18, lstate := .data } : State) = w
  have hrun : w.status = .run := by rw [← hw, hr]
  have hdata : w.lstate = .data := by rw [← hw]
  have hfull : w.ndig = 18 := by rw [← hw]
  refine ⟨_, exec_word hrun hdata hfull, ?_⟩
  cases tm with
  | lf => simp
  | eos =>
    by_cases hfault : (orRaise w (wordOp w)).status = .fault
    case pos => simp [orRaise_lastWordOp w hrun, hfault]
    case neg => simp [orRaise_lastWordOp w hrun, hfault]

end Sys2Proof.Machine
end

section
/-! SUPPORT. Emission with re-wrap: where the line feeds stand among the bytes `wrapped` puts, and EMIT and EMITWORD by it (43 R102, R103,
R109). -/

namespace Sys2Proof.Machine

/-! ### The inserted line feeds -/

theorem add_one_toNat_of_ne {c : BitVec 4} (h : c ≠ 15) : (c + 1).toNat = c.toNat + 1 := by
  bv_omega

/-- Characters that do not fill the line are put as they are. -/
theorem wrapped_of_lt {c : BitVec 4} {bs : List Byte} (h : c.toNat + bs.length < 16) : wrapped c bs = bs := by
  induction bs generalizing c with
  | nil => rfl
  | cons b bs ih =>
    rw [List.length_cons] at h
    have hc : c ≠ 15 := by bv_omega
    rw [wrapped, if_neg hc, ih (by rw [add_one_toNat_of_ne hc]; omega)]

/-- The first line feed stands after the character that fills the line, and the next line begins at column 0. -/
theorem wrapped_of_ge {c : BitVec 4} {bs : List Byte} (h : 16 ≤ c.toNat + bs.length) :
    wrapped c bs = bs.take (16 - c.toNat) ++ [Config.LF] ++ wrapped 0 (bs.drop (16 - c.toNat)) := by
  induction bs generalizing c with
  | nil => exact absurd c.isLt (by simpa using h)
  | cons b bs ih =>
    rw [List.length_cons] at h
    rw [wrapped]
    split_ifs with hc
    case pos => simp [hc]
    case neg =>
      have hnext := add_one_toNat_of_ne hc
      have hroom : 16 - c.toNat = (16 - (c + 1).toNat) + 1 := by omega
      rw [ih (by omega), hroom, List.take_succ_cons, List.drop_succ_cons]
      rfl

theorem wrapped_zero_of_lt {bs : List Byte} (h : bs.length < 16) : wrapped 0 bs = bs :=
  wrapped_of_lt (by simpa using h)

theorem wrapped_zero_of_ge {bs : List Byte} (h : 16 ≤ bs.length) :
    wrapped 0 bs = bs.take 16 ++ [Config.LF] ++ wrapped 0 (bs.drop 16) :=
  wrapped_of_ge (c := 0) (by simpa using h)

/-- With the line feeds taken out, the data characters are left in order. -/
theorem filter_wrapped (c : BitVec 4) {bs : List Byte} (h : ∀ b ∈ bs, b ≠ Config.LF) :
    (wrapped c bs).filter (· != Config.LF) = bs := by
  induction bs generalizing c with
  | nil => rfl
  | cons b bs ih =>
    obtain ⟨hb, hbs⟩ := List.forall_mem_cons.1 h
    rw [wrapped]
    split_ifs <;> simp [hb, ih _ hbs]

/-! ### The characters of a Word -/

theorem hexEnc_ne_lf (d : Nibble) : hexEnc d ≠ Config.LF :=
  (isHexDigit_ne (by simp [isHexDigit])).1

theorem ne_lf_of_mem_spell {y : Word} {b : Byte} (h : b ∈ spell y) : b ≠ Config.LF := by
  obtain ⟨k, -, rfl⟩ := List.mem_map.1 h
  exact hexEnc_ne_lf _

/-- 43 R109: below column 14 the Word fills one line, and its rest does not fill the next. -/
theorem wrapped_spell_of_lt {c : BitVec 4} (hc : c.toNat < 14) (y : Word) :
    wrapped c (spell y) = (spell y).take (16 - c.toNat) ++ [Config.LF] ++ (spell y).drop (16 - c.toNat) := by
  have hlen := spell_length y
  rw [wrapped_of_ge (by omega), wrapped_zero_of_lt (by rw [List.length_drop]; omega)]

/-- 43 R109: from column 14 on the rest of the Word fills a second line. -/
theorem wrapped_spell_of_ge {c : BitVec 4} (hc : 14 ≤ c.toNat) (y : Word) :
    wrapped c (spell y) = (spell y).take (16 - c.toNat) ++ [Config.LF] ++ ((spell y).drop (16 - c.toNat)).take 16 ++ [Config.LF] ++
      (spell y).drop (32 - c.toNat) := by
  have hlen := spell_length y
  have hlt := c.isLt
  have hdrop : 16 - c.toNat + 16 = 32 - c.toNat := by omega
  rw [wrapped_of_ge (by omega), wrapped_zero_of_ge (by rw [List.length_drop]; omega), List.drop_drop, hdrop,
    wrapped_zero_of_lt (by rw [List.length_drop]; omega)]
  simp only [List.append_assoc]

/-! ### The obligations -/

/-- Settles O46: what EMITWORD puts is `wrapped`, whose line feeds are at most two in 18 characters that are no line feeds themselves. -/
theorem emitwordSpellsAndWraps : Obligations.EmitwordSpellsAndWraps := by
  intro y s hr
  refine ⟨wrapped s.col (spell y), ?_, filter_wrapped s.col fun _ => ne_lf_of_mem_spell,
    fun hc => wrapped_spell_of_lt hc y, fun hc => wrapped_spell_of_ge hc y⟩
  rw [exec_emitword hr, emitWord_eq]

/-- Settles O45: EMIT by itself is `emit`, whose two branches are the two clauses. -/
theorem emitPutsALineFeedAfterEvery16th : Obligations.EmitPutsALineFeedAfterEvery16th := by
  intro c s hr
  rw [exec_emit hr, emit]
  constructor
  · intro hc
    rw [if_neg hc]
    rfl
  · intro hc
    rw [if_pos hc]
    rfl

end Sys2Proof.Machine
end

section
/-! SUPPORT. The receive operations: the next state by the class of the item, in each line state (43 R94 to R100, R104). -/

namespace Sys2Proof.Machine

/-! ### The two ways a line is malformed (60 R116) -/

theorem raise_length (s : State) : raise (.inputFormat .length) s = { s with status := .fault, cause := 2, icause := 2 } := rfl

theorem raise_nonHex (s : State) : raise (.inputFormat .nonHex) s = { s with status := .fault, cause := 2, icause := 1 } := rfl

/-! ### RXSOL and RXHDR (43 R94, R95) -/

section
variable (s : State)

theorem rxSol_eos : rxSol .eos s = { s with status := .done } := rfl

theorem rxSol_marker : rxSol (.byte Config.MARKER) s = { s with out := s.out ++ [Config.MARKER], lstate := .hdr } := by
  rw [rxSol, classOf_marker]
  rfl

theorem rxSol_lf : rxSol (.byte Config.LF) s = raise (.inputFormat .length) s := by
  rw [rxSol, classOf_lf]

theorem rxSol_digit {b : Byte} {d : Nibble} (h : hexDec? b = some d) :
    rxSol (.byte b) s = { s with acc := d.setWidth 72, ndig := 1, lstate := .data } := by
  rw [rxSol, classOf_of_digit h]

theorem rxSol_other {b : Byte} (h : hexDec? b = none) (hm : b ≠ Config.MARKER) (hl : b ≠ Config.LF) :
    rxSol (.byte b) s = raise (.inputFormat .nonHex) s := by
  rw [rxSol, classOf_of_other h hm hl]

theorem rxHdr_eos : rxHdr .eos s = { s with status := .done } := rfl

theorem rxHdr_lf : rxHdr (.byte Config.LF) s = { s with out := s.out ++ [Config.LF], lstate := .sol } := rfl

theorem rxHdr_byte {b : Byte} (h : b ≠ Config.LF) : rxHdr (.byte b) s = { s with out := s.out ++ [b] } := by
  rw [rxHdr, if_neg h]
  rfl

/-! ### RXDATA (43 R96 to R100) -/

theorem rxData_digit {b : Byte} {d : Nibble} (h : hexDec? b = some d) : rxData (.byte b) s = rxDigit d s := by
  rw [rxData, classOf_of_digit h]

theorem rxData_nonHex {b : Byte} (h : hexDec? b = none) (hl : b ≠ Config.LF) :
    rxData (.byte b) s = raise (.inputFormat .nonHex) s := by
  by_cases hm : b = Config.MARKER
  case pos => rw [hm, rxData, classOf_marker]
  case neg => rw [rxData, classOf_of_other h hm hl]

theorem rxData_lf : rxData (.byte Config.LF) s =
    if s.ndig = 18 then orRaise s (wordOp s) else raise (.inputFormat .length) s := by
  rw [rxData, classOf_lf]

theorem rxData_eos : rxData .eos s =
    if s.ndig = 18 then orRaise s (lastWordOp s) else raise (.inputFormat .length) s := rfl

end

theorem rxDigit_of_lt (d : Nibble) {s : State} (h : s.ndig.val < 18) :
    rxDigit d s = { s with acc := pushDigit s.acc d, ndig := ⟨s.ndig.val + 1, by omega⟩ } :=
  dif_pos h

theorem rxDigit_of_full (d : Nibble) {s : State} (h : s.ndig = 18) : rxDigit d s = raise (.inputFormat .length) s :=
  dif_neg (by simp [h])

/-! ### `COL` outside data lines (43 R104) -/

/-- Whatever the item, a header line writes `STATUS`, `OUT` and `LSTATE` only. -/
theorem rxHdr_keeps (it : Item) (s : State) :
    ∃ status out lstate, rxHdr it s = { s with status := status, out := out, lstate := lstate } := by
  cases it with
  | eos => exact ⟨_, _, _, rxHdr_eos s⟩
  | byte b =>
    by_cases h : b = Config.LF
    case pos => exact ⟨_, _, _, h ▸ rxHdr_lf s⟩
    case neg => exact ⟨_, _, _, rxHdr_byte s h⟩

theorem rxHdr_col (it : Item) (s : State) : (rxHdr it s).col = s.col := by
  obtain ⟨status, out, lstate, h⟩ := rxHdr_keeps it s
  rw [h]

theorem rxSol_marker_col (s : State) : (rxSol (.byte Config.MARKER) s).col = s.col := by
  rw [rxSol_marker]

theorem hdrLine_col (payload : List Byte) (tm : Term) (s : State) : (hdrLine payload tm s).col = s.col := by
  cases tm <;> rfl

/-! ### The obligations -/

/-- Settles O37: the five classes, each by its equation. -/
theorem rxsolByClass : Obligations.RxsolByClass := by
  intro s hr hl
  simp only [exec_rxsol hr hl]
  refine ⟨rfl, congrArg _ (rxSol_marker s), fun b d hd => ?_, congrArg _ (rxSol_lf s), fun b hb hm hlf => ?_⟩
  · rw [rxSol_digit s hd]
  · rw [rxSol_other s hb hm hlf, raise_nonHex]

/-- Settles O38: the three items, each by its equation. -/
theorem rxhdrCopiesVerbatim : Obligations.RxhdrCopiesVerbatim := by
  intro s hr hl
  simp only [exec_rxhdr hr hl]
  exact ⟨congrArg _ (rxHdr_eos s), congrArg _ (rxHdr_lf s), fun b hb => congrArg _ (rxHdr_byte s hb)⟩

/-- Settles O39: the digit is shifted in, and `pushDigit_toNat` says that the shift loses nothing. -/
theorem rxdataShiftsADigitIn : Obligations.RxdataShiftsADigitIn := by
  intro s b d hr hl hn hd
  rw [exec_rxdata hr hl, rxData_digit s hd, rxDigit_of_lt d hn]
  exact ⟨_, rfl, rfl, rfl, rfl, fun hacc => pushDigit_toNat d hacc hn⟩

/-- Settles O42: a full `NDIG` leaves `rxDigit` the fault only. -/
theorem rxdataRejectsA19thDigit : Obligations.RxdataRejectsA19thDigit := by
  intro s b d hr hl hn hd
  rw [exec_rxdata hr hl, rxData_digit s hd, rxDigit_of_full d hn, raise_length]

/-- Settles O43: the marker and every other byte that has no value raise the same fault. -/
theorem rxdataRejectsAnyOtherByte : Obligations.RxdataRejectsAnyOtherByte := by
  intro s b hr hl hb hlf
  rw [exec_rxdata hr hl, rxData_nonHex s hb hlf, raise_nonHex]

/-- Settles O47: an operation that answers a next state answers its pure operation's, and none of the three writes `COL`. -/
theorem headerLinesLeaveTheCounter : Obligations.HeaderLinesLeaveTheCounter := by
  intro s t
  refine ⟨fun it h => ?_, fun h => ?_, fun payload tm h => ?_⟩
  all_goals obtain ⟨-, -, rfl⟩ := whenSelected_next h
  · exact rxHdr_col it s
  · exact rxSol_marker_col s
  · exact hdrLine_col payload tm s

end Sys2Proof.Machine
end

section
/-! SUPPORT. The Word operation and the two ends of a data line (43 R97, R98, R101; 42 R89). -/

namespace Sys2Proof.Machine

/-! ### A mismatch -/

/-- 42 R84, R92: the information bits of a Word's check are where the draws differ. -/
theorem vinfoOf_paths (s : State) (x : Word) :
    (vinfoOf (pathF s x) (pathS s x) (pathN s x)).getLsbD 0 = (s.upsetNow.s != s.upsetNow.f) ∧
    (vinfoOf (pathF s x) (pathS s x) (pathN s x)).getLsbD 1 = (s.upsetNow.n != s.upsetNow.f) := by
  constructor
  · rw [vinfoOf_bit_zero, Bool.eq_iff_iff, bne_iff_ne, bne_iff_ne, Ne, pathS_eq_pathF_iff]
  · rw [vinfoOf_bit_one, Bool.eq_iff_iff, bne_iff_ne, bne_iff_ne, Ne, pathN_eq_pathF_iff]

theorem wordOp_of_not_agrees {s : State} (hm : s.mode = 1) (h : ¬ s.upsetAgrees) :
    wordOp s = .error (.verifyMismatch (vinfoOf (pathF s s.acc) (pathS s s.acc) (pathN s s.acc))) := by
  rw [wordOp, revword_of_not_agrees hm h]

/-! ### After a Word -/

/-- 43 R97: a Word that did not fault leaves the block at the start of a line, and the run goes on. -/
theorem orRaise_wordOp_goes_on {s : State} (hr : s.status = .run) (h : (orRaise s (wordOp s)).status ≠ .fault) :
    (orRaise s (wordOp s)).lstate = .sol ∧ (orRaise s (wordOp s)).status = .run := by
  rcases wordOp_cases s with hw | ⟨v, -, -, hw⟩
  · rw [hw]
    exact ⟨rfl, hr⟩
  · rw [hw] at h
    exact absurd rfl h

/-! ### The obligations -/

/-- Settles O44: the draws and `MODE` decide between the two answers of the Word operation. -/
theorem wordEmitsTheCheckedWordOrNothing : Obligations.WordEmitsTheCheckedWordOrNothing := by
  intro s hr hl hn
  rw [exec_word hr hl hn]
  constructor
  · intro hquiet
    have hagree : s.mode = 1 → s.upsetAgrees := fun hm => hquiet.resolve_left (by simp [hm])
    refine ⟨_, exec_emitword (s := { s with widx := s.widx + 1 }) hr (fast s.acc ^^^ s.upsetNow.f), ?_⟩
    rw [wordOp_of_agrees hagree, emitWord_eq]
    rfl
  · intro hm hdiffer
    obtain ⟨hbit0, hbit1⟩ := vinfoOf_paths s s.acc
    rw [wordOp_of_not_agrees hm hdiffer]
    exact ⟨_, hbit0, hbit1, rfl⟩

/-- Settles O40: LF is the Word operation when `NDIG` is 18 and `LENGTH` otherwise. -/
theorem rxdataLineFeedEndsTheLine : Obligations.RxdataLineFeedEndsTheLine := by
  intro s hr hl
  rw [exec_rxdata hr hl, rxData_lf]
  constructor
  · intro hn
    rw [if_pos hn]
    exact ⟨_, exec_word hr hl hn, rfl, orRaise_wordOp_goes_on hr⟩
  · intro hn
    rw [if_neg hn, raise_length]

/-- Settles O41: `EOS` is the last Word operation when `NDIG` is 18, which `orRaise_lastWordOp` compares with WORD, and `LENGTH`
otherwise. -/
theorem rxdataEndOfStreamEndsTheLine : Obligations.RxdataEndOfStreamEndsTheLine := by
  intro s hr hl
  rw [exec_rxdata hr hl, rxData_eos]
  constructor
  · intro hn
    rw [if_pos hn, orRaise_lastWordOp s hr]
    refine ⟨_, exec_word hr hl hn, fun hfault => ?_, fun hfault => ?_⟩
    · rw [if_pos hfault]
    · rw [if_neg hfault]
  · intro hn
    rw [if_neg hn, raise_length]

end Sys2Proof.Machine
end

section
/-! SUPPORT. When a step is enabled, and what it takes from the pending input (43 R93, R106). -/

namespace Sys2Proof.Machine

theorem step_of_input {s : State} {ev : HostEvent} {rest : List HostEvent} (h : s.input = ev :: rest) :
    step s = exec (ev.select s.lstate) (s.withInput rest) := by
  rw [step, h]

theorem step_of_input_nil {s : State} (h : s.input = []) : step s = .refused (idleRefusal s) := by
  rw [step, h]

/-! ### An ended run (43 R106) -/

section
variable {s : State} (h : s.status ≠ .run)
include h

theorem idleRefusal_of_ended : idleRefusal s = .runEnded := by
  unfold idleRefusal
  split
  case h_1 hr => exact absurd hr h
  case h_2 => rfl
  case h_3 => rfl

theorem exec_selectItem_of_ended (l : LState) (it : Item) : exec (selectItem l it) s = .refused .runEnded := by
  cases l <;> exact whenSelected_ended h _ _

theorem exec_selectLine_of_ended (line : List Byte) (tm : Term) : exec (selectLine line tm) s = .refused .runEnded := by
  unfold selectLine
  split
  · cases tm <;> exact whenSelected_ended h _ _
  · split_ifs <;> exact whenSelected_ended h _ _

end

/-! ### One item of a running block (43 R93) -/

theorem rxSol_input (it : Item) (s : State) : (rxSol it s).input = s.input := by
  unfold rxSol
  cases it with
  | eos => rfl
  | byte b => cases hb : classOf b <;> simp [hb]

theorem rxHdr_input (it : Item) (s : State) : (rxHdr it s).input = s.input := by
  obtain ⟨status, out, lstate, h⟩ := rxHdr_keeps it s
  rw [h]

theorem rxData_input (it : Item) (s : State) : (rxData it s).input = s.input := by
  have h : rxData it s = (rxData it s).withInput s.input := rxData_withInput it s s.input
  rw [h, State.withInput_input]

/-- The operation that `LSTATE` selects answers a next state, and reads nothing more of the pending input. -/
theorem exists_exec_selectItem {s : State} (hr : s.status = .run) (it : Item) :
    ∃ t, exec (selectItem s.lstate it) s = .next t ∧ t.input = s.input := by
  cases hl : s.lstate with
  | sol => exact ⟨_, exec_rxsol hr hl it, rxSol_input it s⟩
  | hdr => exact ⟨_, exec_rxhdr hr hl it, rxHdr_input it s⟩
  | data => exact ⟨_, exec_rxdata hr hl it, rxData_input it s⟩

/-! ### The obligations -/

/-- Settles O4: nothing pending is refused by `idleRefusal`, an item or a line by the operation it selects, and RESET runs. -/
theorem onlyResetLeavesAnEndedRun : Obligations.OnlyResetLeavesAnEndedRun := by
  intro s hended
  refine ⟨fun hin => ?idle, fun it rest hin => ?item, fun line tm rest hin => ?line, fun m rest hin => ?reset⟩
  case idle => rw [step_of_input_nil hin, idleRefusal_of_ended hended]
  case item =>
    rw [step_of_input hin]
    exact exec_selectItem_of_ended (s := s.withInput rest) hended s.lstate it
  case line =>
    rw [step_of_input hin]
    exact exec_selectLine_of_ended (s := s.withInput rest) hended line tm
  case reset =>
    rw [step_of_input hin]
    exact ⟨_, exec_reset m (s.withInput rest), rfl, rfl, rfl, rfl, rfl⟩

/-- Settles O6: the selected operation answers a next state exactly while the block runs, and the rule is the one of `LSTATE`. -/
theorem aStepIsEnabledWhileRunningAndConsumesOneItem : Obligations.AStepIsEnabledWhileRunningAndConsumesOneItem := by
  intro s it rest hin
  have hstep : step s = exec (selectItem s.lstate it) (s.withInput rest) := step_of_input hin
  have hnext (hr : s.status = .run) := exists_exec_selectItem (s := s.withInput rest) hr it
  have hrun {t : State} (h : step s = .next t) : s.status = .run := by
    by_contra hended
    rw [hstep, exec_selectItem_of_ended (s := s.withInput rest) hended] at h
    cases h
  rw [hstep] at hrun ⊢
  refine ⟨⟨fun hr => (hnext hr).imp fun _ => And.left, fun ⟨t, ht⟩ => hrun ht⟩, fun t ht => ⟨?consumed, ?sol, ?hdr, ?data⟩⟩
  case consumed =>
    obtain ⟨u, hu, hinput⟩ := hnext (hrun ht)
    obtain rfl : u = t := Host.Outcome.next.inj (hu.symm.trans ht)
    exact hinput
  case sol => exact fun hl => by rwa [hl] at ht
  case hdr => exact fun hl => by rwa [hl] at ht
  case data => exact fun hl => by rwa [hl] at ht

end Sys2Proof.Machine
end

section
/-! SUPPORT. Entering a fault: all that `raise` writes, and the status output it leaves (60 R116, 10 R24). -/

namespace Sys2Proof.Machine

theorem State.exit_eq_cause {s : State} (h : s.status = .fault) : s.exit = s.cause := by
  simp [State.exit, h]

/-- What taking a mismatch writes; the two input faults are `raise_nonHex` and `raise_length`. -/
theorem raise_verifyMismatch (v : BitVec 2) (s : State) :
    raise (.verifyMismatch v) s = { s with
      status := .fault, cause := 1, vinfo := v, diag := s.diag ++ s.diagLine, widx := s.widx + 1 } := rfl

/-- Settles O34: one equation per fault, and `EXIT` from the status that `raise` leaves. -/
theorem raiseEntersTheFault : Obligations.RaiseEntersTheFault := by
  intro s
  exact ⟨fun v => raise_verifyMismatch v s, raise_nonHex s, raise_length s,
    fun f => State.exit_eq_cause (raise_status f s)⟩

end Sys2Proof.Machine
end

section
/-! SUPPORT. The line formats (30 R46 to R48): what the decoder accepts, where a stream is cut, and the round trip between an operation
and its encoding. -/

namespace Sys2Proof.Machine

/-! ### Lines without a line feed (30 R42, R47) -/

theorem payloadOk_iff {bytes : List Byte} : payloadOk bytes = true ↔ Config.LF ∉ bytes := by
  simp only [payloadOk, List.all_eq_true, bne_iff_ne]
  exact ⟨fun h hmem => h _ hmem rfl, fun h b hb hlf => h (hlf ▸ hb)⟩

theorem payloadOk_marker_cons (payload : List Byte) : payloadOk (Config.MARKER :: payload) = payloadOk payload := rfl

theorem payloadOk_of_dataLineOk {line : List Byte} (h : dataLineOk line = true) : payloadOk line = true := by
  have hdata := isDataLine_of_legal h .lf
  simp only [isDataLine, Bool.and_eq_true] at hdata
  exact hdata.1.1

/-! ### The decoder (30 R46, R48) -/

theorem decodeLine_header {payload : List Byte} (h : payloadOk payload = true) (tm : Term) :
    decodeLine (Config.MARKER :: payload) tm = .ok (.hdr payload tm) := by
  simp [decodeLine, payloadOk_marker_cons, h]

theorem decodeLine_data {line : List Byte} (h : dataLineOk line = true) (tm : Term) :
    decodeLine line tm = .ok (.data line tm) := by
  have hlegal := (lineError_none_iff line).2 h
  have hp := payloadOk_of_dataLineOk h
  cases line with
  | nil => exact absurd h (by decide)
  | cons b bs =>
    have hm : b ≠ Config.MARKER := by
      rintro rfl
      exact absurd h (by simp [dataLineOk, isHexDigit, hexDec?_marker])
    simp [decodeLine, hp, hm, hlegal]

/-- 30 R46 to R48, R53: the decoder accepts a header line without a line feed and a data line of 18 digits, and nothing else. -/
theorem decodeLine_eq_ok_iff {line : List Byte} {tm : Term} {i : Instr} : decodeLine line tm = .ok i ↔
    (∃ payload, line = Config.MARKER :: payload ∧ payloadOk payload = true ∧ i = .hdr payload tm) ∨
    (dataLineOk line = true ∧ i = .data line tm) := by
  constructor
  case mp =>
    intro h
    unfold decodeLine at h
    split_ifs at h with hp
    split at h
    · split at h <;> cases h
    · next b rest =>
      split_ifs at h with hm
      · subst hm
        exact .inl ⟨rest, rfl, by simpa [payloadOk_marker_cons] using hp, by simpa using h.symm⟩
      · split at h
        · cases h
        · next hlegal => exact .inr ⟨(lineError_none_iff _).1 hlegal, by simpa using h.symm⟩
  case mpr =>
    rintro (⟨payload, rfl, hp, rfl⟩ | ⟨hd, rfl⟩)
    · exact decodeLine_header hp tm
    · exact decodeLine_data hd tm

theorem payloadOk_of_decodeLine {line : List Byte} {tm : Term} {i : Instr} (h : decodeLine line tm = .ok i) :
    payloadOk line = true := by
  obtain ⟨payload, rfl, hp, -⟩ | ⟨hd, -⟩ := decodeLine_eq_ok_iff.1 h
  · rwa [payloadOk_marker_cons]
  · exact payloadOk_of_dataLineOk hd

/-! ### The first line of a stream (30 R42, R43) -/

theorem cutLine_lf {line : List Byte} (h : Config.LF ∉ line) (rest : List Byte) :
    cutLine (line ++ Config.LF :: rest) = (line, .lf, rest) := by
  induction line with
  | nil => simp [cutLine]
  | cons b bs ih =>
    obtain ⟨hb, hbs⟩ := List.ne_and_not_mem_of_not_mem_cons h
    simp [cutLine, ih hbs, Ne.symm hb]

theorem cutLine_eos {line : List Byte} (h : Config.LF ∉ line) : cutLine line = (line, .eos, []) := by
  induction line with
  | nil => rfl
  | cons b bs ih =>
    obtain ⟨hb, hbs⟩ := List.ne_and_not_mem_of_not_mem_cons h
    simp [cutLine, ih hbs, Ne.symm hb]

/-- A line that decodes is cut off whole where its LF is followed by anything. -/
theorem decodeBytes_lf {line : List Byte} {i : Instr} (h : decodeLine line .lf = .ok i) (rest : List Byte) :
    decodeBytes (line ++ Term.lf.bytes ++ rest) = .ok (i, rest) := by
  have hcut : cutLine (line ++ Term.lf.bytes ++ rest) = (line, .lf, rest) := by
    rw [List.append_assoc]
    exact cutLine_lf (payloadOk_iff.1 (payloadOk_of_decodeLine h)) rest
  simp only [decodeBytes, hcut, h]

/-- A line that decodes is all of a stream that ends with it. -/
theorem decodeBytes_eos {line : List Byte} {i : Instr} (h : decodeLine line .eos = .ok i) :
    decodeBytes (line ++ Term.eos.bytes) = .ok (i, []) := by
  have hcut : cutLine (line ++ Term.eos.bytes) = (line, .eos, []) := by
    rw [show Term.eos.bytes = [] from rfl, List.append_nil]
    exact cutLine_eos (payloadOk_iff.1 (payloadOk_of_decodeLine h))
  simp only [decodeBytes, hcut, h]

/-! ### The round trip (30 R55) -/

theorem decode_encode {i : Instr} (hw : i.wellFormed = true) (hwired : encode i ≠ .wired) (hcalled : encode i ≠ .called) :
    decode (encode i) = .ok i := by
  cases i
  case hdr payload tm => exact decodeLine_header hw tm
  case data line tm => exact decodeLine_data hw tm
  case rxsol | rxhdr | rxdata | reset => rfl
  case word | emit | emitword => exact absurd rfl hcalled
  all_goals exact absurd rfl hwired

theorem decodeLine_of_encode_line {i : Instr} (hw : i.wellFormed = true) {line : List Byte} {tm : Term}
    (he : encode i = .line line tm) : decodeLine line tm = .ok i := by
  have h := decode_encode hw (by simp [he]) (by simp [he])
  rwa [he] at h

/-- The bytes of an operation on `IN` are its line and what the line's end contributes. -/
theorem encodeBytes_of_encode_line {i : Instr} {line : List Byte} {tm : Term} (he : encode i = .line line tm) :
    encodeBytes i = some (line ++ tm.bytes) := by
  cases i <;> cases he <;> rfl

theorem wellFormed_and_encode_of_decode {e : Encoding} {i : Instr} (h : decode e = .ok i) :
    i.wellFormed = true ∧ encode i = e := by
  cases e with
  | wired => cases h
  | called => cases h
  | item l it => cases l <;> cases h <;> exact ⟨rfl, rfl⟩
  | line bytes tm =>
    obtain ⟨payload, rfl, hp, rfl⟩ | ⟨hd, rfl⟩ := decodeLine_eq_ok_iff.1 h
    · exact ⟨hp, rfl⟩
    · exact ⟨hd, rfl⟩
  | resetInput modeIn => cases h; exact ⟨rfl, rfl⟩

/-! ### The obligations -/

/-- Settles O58: the two line formats decode to what they encode; the bytes of a line that decodes hold no LF but a last one, so the
stream is cut right behind it. -/
theorem decodeOfEncodeIsTheOperation : Obligations.DecodeOfEncodeIsTheOperation := by
  intro i hw
  refine ⟨decode_encode hw, ?lf, ?eos⟩
  case lf =>
    rintro bytes rest hb ⟨line, he⟩
    obtain rfl : line ++ Term.lf.bytes = bytes := Option.some.inj ((encodeBytes_of_encode_line he).symm.trans hb)
    exact decodeBytes_lf (decodeLine_of_encode_line hw he) rest
  case eos =>
    rintro bytes hb ⟨line, he⟩
    obtain rfl : line ++ Term.eos.bytes = bytes := Option.some.inj ((encodeBytes_of_encode_line he).symm.trans hb)
    exact decodeBytes_eos (decodeLine_of_encode_line hw he)

/-- Settles O59: an item and the reset input are read back as they are, and a line by the two formats of `decodeLine_eq_ok_iff`. -/
theorem onlyLegalLinesDecode : Obligations.OnlyLegalLinesDecode := fun _ _ => wellFormed_and_encode_of_decode

/-- Settles O60: three lines that the two formats accept, cut off their streams. -/
theorem writtenOutLinesDecode : Obligations.WrittenOutLinesDecode := by
  refine ⟨?payload, ?shortest, ?wordOne⟩
  case payload => exact decodeBytes_lf (decodeLine_header (payload := [0x78#8]) (by decide) .lf) []
  case shortest => exact decodeBytes_eos (decodeLine_header (payload := []) rfl .eos)
  case wordOne =>
    have hd : dataLineOk (List.replicate 17 0x30#8 ++ [0x31#8]) = true := by decide
    exact decodeBytes_lf (decodeLine_data hd .lf) [0x40#8]

end Sys2Proof.Machine
end

section
/-! SUPPORT. What a step does to the counters and to the fault elements, said once as `StepEffect`; the invariants of 10 R16, R21 to R23
and 43 R109, and what a faulting step leaves, follow from it. -/

namespace Sys2Proof.Machine

/-! ### What the receive operations can do (43 R94, R96 to R100) -/

/-- Everything `RXSOL` can do: end the run, begin a line of one of the two kinds, or raise `INPUT_FORMAT`. -/
theorem rxSol_cases (it : Item) (s : State) :
    rxSol it s = { s with status := .done } ∨
    rxSol it s = { s with out := s.out ++ [Config.MARKER], lstate := .hdr } ∨
    (∃ d : Nibble, rxSol it s = { s with acc := d.setWidth 72, ndig := 1, lstate := .data }) ∨
    ∃ c, rxSol it s = raise (.inputFormat c) s := by
  cases it with
  | eos => exact .inl (rxSol_eos s)
  | byte b =>
    by_cases hlf : b = Config.LF
    · exact .inr (.inr (.inr ⟨_, hlf ▸ rxSol_lf s⟩))
    by_cases hm : b = Config.MARKER
    · exact .inr (.inl (hm ▸ rxSol_marker s))
    cases hb : hexDec? b with
    | none => exact .inr (.inr (.inr ⟨_, rxSol_other s hb hm hlf⟩))
    | some d => exact .inr (.inr (.inl ⟨d, rxSol_digit s hb⟩))

/-- Everything `RXDATA` can do: shift a digit in, process the Word, or raise `INPUT_FORMAT`. -/
theorem rxData_cases (it : Item) (s : State) :
    (∃ d, s.ndig.val < 18 ∧ rxData it s = rxDigit d s) ∨
    rxData it s = orRaise s (wordOp s) ∨ rxData it s = orRaise s (lastWordOp s) ∨
    ∃ c, rxData it s = raise (.inputFormat c) s := by
  cases it with
  | eos =>
    rw [rxData_eos]
    split_ifs
    · exact .inr (.inr (.inl rfl))
    · exact .inr (.inr (.inr ⟨_, rfl⟩))
  | byte b =>
    by_cases hlf : b = Config.LF
    · subst hlf
      rw [rxData_lf]
      split_ifs
      · exact .inr (.inl rfl)
      · exact .inr (.inr (.inr ⟨_, rfl⟩))
    cases hb : hexDec? b with
    | none => exact .inr (.inr (.inr ⟨_, rxData_nonHex s hb hlf⟩))
    | some d =>
      rw [rxData_digit s hb]
      by_cases hn : s.ndig.val < 18
      · exact .inl ⟨d, hn, rfl⟩
      · exact .inr (.inr (.inr ⟨.length, dif_neg hn⟩))

/-! ### What a step can do outside the line elements -/

/-- What a step makes of `u`, the state with the event taken and the digits of a whole line accepted: the run goes on or ends without a
fault and no Word is counted; a Word is put out; or a fault is taken in `u`. -/
inductive StepEffect (u : State) : State → Prop where
  | noWord (status : Status) (lstate : LState) (acc : Word) (ndig : Fin 19) (out : List Byte) (h : status ≠ .fault) :
      StepEffect u { u with status := status, lstate := lstate, acc := acc, ndig := ndig, out := out }
  | oneWord (status : Status) (out : List Byte) (h : status ≠ .fault) :
      StepEffect u { u with
        status := status, lstate := .sol, acc := 0, ndig := 0, out := out, col := u.col + 2, widx := u.widx + 1 }
  | badInput (c : ICause) : StepEffect u (raise (.inputFormat c) u)
  | mismatch (v : BitVec 2) (h : v ≠ 0) : StepEffect u (raise (.verifyMismatch v) u)

theorem lastWordOp_effect (s : State) : StepEffect s (orRaise s (lastWordOp s)) := by
  rcases wordOp_cases s with h | ⟨v, hv, -, h⟩ <;> rw [lastWordOp, h]
  · exact .oneWord .done _ (by decide)
  · exact .mismatch v hv

section
variable {s : State} (hr : s.status = .run)
include hr

theorem status_ne_fault : s.status ≠ .fault := by simp [hr]

theorem wordOp_effect : StepEffect s (orRaise s (wordOp s)) := by
  rcases wordOp_cases s with h | ⟨v, hv, -, h⟩ <;> rw [h]
  · exact .oneWord s.status _ (status_ne_fault hr)
  · exact .mismatch v hv

theorem rxSol_effect (it : Item) : StepEffect s (rxSol it s) := by
  obtain h | h | ⟨d, h⟩ | ⟨c, h⟩ := rxSol_cases it s <;> rw [h]
  · exact .noWord .done _ _ _ _ (by decide)
  · exact .noWord s.status _ _ _ _ (status_ne_fault hr)
  · exact .noWord s.status _ _ _ _ (status_ne_fault hr)
  · exact .badInput c

theorem rxHdr_effect (it : Item) : StepEffect s (rxHdr it s) := by
  unfold rxHdr
  cases it with
  | eos => exact .noWord .done _ _ _ _ (by decide)
  | byte b =>
    simp only
    split_ifs
    · exact .noWord s.status _ _ _ _ (status_ne_fault hr)
    · exact .noWord s.status _ _ _ _ (status_ne_fault hr)

theorem rxData_effect (it : Item) : StepEffect s (rxData it s) := by
  obtain ⟨d, hn, h⟩ | h | h | ⟨c, h⟩ := rxData_cases it s <;> rw [h]
  · rw [rxDigit_of_lt d hn]
    exact .noWord s.status _ _ _ _ (status_ne_fault hr)
  · exact wordOp_effect hr
  · exact lastWordOp_effect _
  · exact .badInput c

theorem hdrLine_effect (payload : List Byte) (tm : Term) : StepEffect s (hdrLine payload tm s) := by
  cases tm with
  | lf => exact .noWord s.status _ _ _ _ (status_ne_fault hr)
  | eos => exact .noWord .done _ _ _ _ (by decide)

theorem dataLine_effect (line : List Byte) (tm : Term) :
    ∃ acc ndig lstate, StepEffect { s with acc := acc, ndig := ndig, lstate := lstate } (dataLine line tm s) := by
  cases hl : lineError line with
  | some e =>
    obtain ⟨acc, ndig, lstate, h⟩ := acceptDigits_keeps (leadingDigits line) e.accepted s
    rw [dataLine_of_malformed hl, h]
    exact ⟨acc, ndig, lstate, .badInput _⟩
  | none =>
    obtain ⟨acc, ndig, lstate, h⟩ := acceptDigits_keeps (leadingDigits line) 18 s
    rw [dataLine_of_legal hl, h]
    refine ⟨acc, ndig, lstate, ?_⟩
    cases tm with
    | lf => exact wordOp_effect hr
    | eos => exact lastWordOp_effect _

end

/-- What a step that answers a next state has done, by the kind of its event; `step_next` with the operations named by what they do. -/
theorem step_effect {s t : State} (h : step s = .next t) :
    ∃ ev rest, s.input = ev :: rest ∧
      ((∃ m, ev = .reset m ∧ t = resetElements m (s.withInput rest)) ∨
       (s.status = .run ∧ ∃ it, ev = .item it ∧ StepEffect (s.withInput rest) t) ∨
       (s.status = .run ∧ ∃ line tm, ev = .line line tm ∧ ∃ acc ndig lstate,
         StepEffect { s.withInput rest with acc := acc, ndig := ndig, lstate := lstate } t)) := by
  obtain ⟨ev, rest, hin, hreset | ⟨hr, ⟨it, hev, hit⟩ | ⟨line, tm, hev, -, hline⟩⟩⟩ := step_next h
  · exact ⟨ev, rest, hin, .inl hreset⟩
  · have hrun : (s.withInput rest).status = .run := hr
    refine ⟨ev, rest, hin, .inr (.inl ⟨hr, it, hev, ?_⟩)⟩
    obtain ⟨-, rfl⟩ | ⟨-, rfl⟩ | ⟨-, rfl⟩ := hit
    · exact rxSol_effect hrun it
    · exact rxHdr_effect hrun it
    · exact rxData_effect hrun it
  · have hrun : (s.withInput rest).status = .run := hr
    refine ⟨ev, rest, hin, .inr (.inr ⟨hr, line, tm, hev, ?_⟩)⟩
    obtain ⟨-, -, rfl⟩ | ⟨payload, -, -, rfl⟩ | ⟨-, rfl⟩ := hline
    · exact ⟨_, _, _, rxSol_effect hrun .eos⟩
    · exact ⟨_, _, _, hdrLine_effect hrun payload tm⟩
    · exact dataLine_effect hrun line tm

/-! ### The two halves of the invariant -/

/-- The half of `Inv` about the line elements (10 R16). -/
abbrev LineInv (s : State) : Prop :=
  (s.lstate = .data → 1 ≤ s.ndig.val) ∧ (s.lstate ≠ .data → s.ndig = 0) ∧ s.acc.toNat < 16 ^ s.ndig.val

/-- The half of `Inv` about the fault elements (10 R21 to R23). -/
abbrev FaultInv (s : State) : Prop :=
  (s.cause ≠ 0 ↔ s.status = .fault) ∧ s.cause ≠ 3 ∧ (s.cause ≠ 1 → s.vinfo = 0) ∧ (s.cause ≠ 2 → s.icause = 0) ∧ s.icause ≠ 3

theorem inv_iff (s : State) : Inv s ↔ LineInv s ∧ FaultInv s :=
  ⟨fun ⟨h1, h2, h3, h4⟩ => ⟨⟨h1, h2, h3⟩, h4⟩, fun ⟨⟨h1, h2, h3⟩, h4⟩ => ⟨h1, h2, h3, h4⟩⟩

/-- While the run goes on no fault information is set. -/
theorem FaultInv.clear {s : State} (h : FaultInv s) (hr : s.status = .run) : s.cause = 0 ∧ s.vinfo = 0 ∧ s.icause = 0 := by
  obtain ⟨hfault, -, hv, hi, -⟩ := h
  have hc : s.cause = 0 := by
    by_contra hc
    exact status_ne_fault hr (hfault.1 hc)
  exact ⟨hc, hv (by simp [hc]), hi (by simp [hc])⟩

theorem faultInv_of_clear {s : State} (hs : s.status ≠ .fault) (hc : s.cause = 0) (hv : s.vinfo = 0) (hi : s.icause = 0) :
    FaultInv s := by
  simp [FaultInv, hs, hc, hv, hi]

theorem StepEffect.faultInv {u t : State} (h : StepEffect u t) (hr : u.status = .run) (hu : FaultInv u) : FaultInv t := by
  obtain ⟨hc, hv, hi⟩ := hu.clear hr
  cases h with
  | noWord status lstate acc ndig out hs => exact faultInv_of_clear hs hc hv hi
  | oneWord status out hs => exact faultInv_of_clear hs hc hv hi
  | badInput c => cases c <;> simp [FaultInv, hv, icauseCode]
  | mismatch v _ => simp [FaultInv, hi]

/-! ### The line elements through the operations -/

theorem lineInv_of_empty {s : State} (hl : s.lstate ≠ .data) (hn : s.ndig = 0) (ha : s.acc = 0) : LineInv s := by
  simp [LineInv, hl, hn, ha]

theorem lineInv_raise {s : State} (h : LineInv s) (f : FaultInfo) : LineInv (raise f s) := by
  cases f <;> exact h

/-- Outside a data line no digits are held. -/
theorem LineInv.empty {s : State} (h : LineInv s) (hl : s.lstate ≠ .data) : s.ndig = 0 ∧ s.acc = 0 := by
  obtain ⟨-, hn, ha⟩ := h
  rw [hn hl] at ha
  exact ⟨hn hl, BitVec.eq_of_toNat_eq (by simpa using ha)⟩

theorem wordOp_lineInv {s : State} (h : LineInv s) : LineInv (orRaise s (wordOp s)) := by
  rcases wordOp_cases s with hw | ⟨v, -, -, hw⟩ <;> rw [hw]
  · exact lineInv_of_empty (by simp [orRaise]) rfl rfl
  · exact lineInv_raise h _

theorem lastWordOp_lineInv {s : State} (h : LineInv s) : LineInv (orRaise s (lastWordOp s)) := by
  rcases wordOp_cases s with hw | ⟨v, -, -, hw⟩ <;> rw [lastWordOp, hw]
  · exact lineInv_of_empty (by simp [orRaise]) rfl rfl
  · exact lineInv_raise h _

theorem rxDigit_lineInv {s : State} (h : LineInv s) (hn : s.ndig.val < 18) (hl : s.lstate = .data) (d : Nibble) :
    LineInv (rxDigit d s) := by
  obtain ⟨-, -, ha⟩ := h
  rw [rxDigit_of_lt d hn]
  exact ⟨fun _ => Nat.le_add_left 1 _, fun hne => absurd hl hne, pushDigit_lt d ha hn⟩

theorem rxSol_lineInv {s : State} (h : LineInv s) (hl : s.lstate = .sol) (it : Item) : LineInv (rxSol it s) := by
  obtain ⟨hn, ha⟩ := h.empty (by simp [hl])
  obtain hs | hs | ⟨d, hs⟩ | ⟨c, hs⟩ := rxSol_cases it s <;> rw [hs]
  · exact h
  · exact lineInv_of_empty (by simp) hn ha
  · refine ⟨fun _ => Nat.le_refl 1, fun hne => absurd rfl hne, ?_⟩
    simp only [BitVec.toNat_setWidth]
    exact Nat.lt_of_le_of_lt (Nat.mod_le _ _) d.isLt
  · exact lineInv_raise h _

theorem rxHdr_lineInv {s : State} (h : LineInv s) (hl : s.lstate = .hdr) (it : Item) : LineInv (rxHdr it s) := by
  obtain ⟨hn, ha⟩ := h.empty (by simp [hl])
  unfold rxHdr
  cases it with
  | eos => exact h
  | byte b =>
    simp only
    split_ifs
    · exact lineInv_of_empty (by simp) hn ha
    · exact h

theorem rxData_lineInv {s : State} (h : LineInv s) (hl : s.lstate = .data) (it : Item) : LineInv (rxData it s) := by
  obtain ⟨d, hn, hd⟩ | hd | hd | ⟨c, hd⟩ := rxData_cases it s <;> rw [hd]
  · exact rxDigit_lineInv h hn hl d
  · exact wordOp_lineInv h
  · exact lastWordOp_lineInv h
  · exact lineInv_raise h _

theorem hdrLine_lineInv {s : State} (h : LineInv s) (hl : s.lstate = .sol) (payload : List Byte) (tm : Term) :
    LineInv (hdrLine payload tm s) := by
  obtain ⟨hn, ha⟩ := h.empty (by simp [hl])
  cases tm with
  | lf => exact lineInv_of_empty (by simp [hdrLine]) hn ha
  | eos => exact lineInv_of_empty (by simp [hdrLine]) hn ha

theorem acceptDigits_lineInv {s : State} (h : LineInv s) {ds : List Nibble} {n : Nat} (hds : n ≤ ds.length) (hn : n ≤ 18) :
    LineInv (acceptDigits ds n s) := by
  unfold acceptDigits
  split_ifs with h0
  · exact h
  · have hval : (Fin.ofNat 19 n).val = n := Nat.mod_eq_of_lt (by omega)
    have hlen : (ds.take n).length = n := List.length_take_of_le hds
    have hlt := assemble_lt (ds.take n) (by omega)
    rw [hlen] at hlt
    refine ⟨fun _ => ?_, fun hne => absurd rfl hne, ?_⟩
    · rw [hval]; omega
    · rwa [hval]

theorem dataLine_lineInv {s : State} (h : LineInv s) (line : List Byte) (tm : Term) : LineInv (dataLine line tm s) := by
  cases hl : lineError line with
  | some e =>
    obtain ⟨hle, h18⟩ := lineError_accepted_le hl
    rw [dataLine_of_malformed hl]
    exact lineInv_raise (acceptDigits_lineInv h hle h18) _
  | none =>
    have hu := acceptDigits_lineInv (n := 18) h (leadingDigits_of_legal hl).ge (Nat.le_refl 18)
    rw [dataLine_of_legal hl]
    cases tm with
    | lf => exact wordOp_lineInv hu
    | eos => exact lastWordOp_lineInv hu

theorem step_lineInv {s t : State} (h : LineInv s) (hst : step s = .next t) : LineInv t := by
  have hu (rest : List HostEvent) : LineInv (s.withInput rest) := h
  obtain ⟨ev, rest, -, ⟨m, -, rfl⟩ | ⟨-, ⟨it, -, hit⟩ | ⟨line, tm, -, hl, hline⟩⟩⟩ := step_next hst
  · exact lineInv_of_empty (by simp) rfl rfl
  · obtain ⟨hl, rfl⟩ | ⟨hl, rfl⟩ | ⟨hl, rfl⟩ := hit
    · exact rxSol_lineInv (hu rest) hl it
    · exact rxHdr_lineInv (hu rest) hl it
    · exact rxData_lineInv (hu rest) hl it
  · obtain ⟨-, -, rfl⟩ | ⟨payload, -, -, rfl⟩ | ⟨-, rfl⟩ := hline
    · exact rxSol_lineInv (hu rest) hl .eos
    · exact hdrLine_lineInv (hu rest) hl payload tm
    · exact dataLine_lineInv (hu rest) line tm

theorem step_faultInv {s t : State} (h : FaultInv s) (hst : step s = .next t) : FaultInv t := by
  obtain ⟨ev, rest, -, ⟨m, -, rfl⟩ | ⟨hr, it, -, he⟩ | ⟨hr, line, tm, -, acc, ndig, lstate, he⟩⟩ := step_effect hst
  · exact faultInv_of_clear (by simp) rfl rfl rfl
  · exact he.faultInv hr h
  · exact he.faultInv hr h

/-! ### `COL` and the Words emitted (43 R109) -/

/-- A Word moves both counts, a mismatch counts a Word that it takes back, and nothing else moves either. -/
theorem StepEffect.colInv {u t : State} (h : StepEffect u t) (hc : u.cause = 0) (hu : ColInv u) : ColInv t := by
  have hemitted : u.emitted = u.widx := by simp [State.emitted, hc]
  have hcol : u.col.toNat = 2 * u.widx % 16 := hemitted ▸ hu
  cases h with
  | noWord status lstate acc ndig out hs => exact hu
  | oneWord status out hs =>
    simp [ColInv, State.emitted, hc, hcol, Nat.mul_add]
  | badInput c => simpa [ColInv, State.emitted] using hcol
  | mismatch v _ => simpa [ColInv, State.emitted] using hcol

/-! ### Faulting steps (60 R116 to R118) -/

/-- A fault that a step takes is one of the two, taken in `u`. -/
theorem StepEffect.of_fault {u t : State} (h : StepEffect u t) (ht : t.status = .fault) :
    (∃ c, t = raise (.inputFormat c) u) ∨ ∃ v, t = raise (.verifyMismatch v) u := by
  cases h with
  | noWord status lstate acc ndig out hs => exact absurd ht hs
  | oneWord status out hs => exact absurd ht hs
  | badInput c => exact .inl ⟨c, rfl⟩
  | mismatch v _ => exact .inr ⟨v, rfl⟩

/-! ### `MODE` and the fault elements (10 R12, R21 to R23) -/

/-- `MODE` is as before and no fault element is cleared. -/
abbrev KeepsFault (s t : State) : Prop :=
  t.mode = s.mode ∧ (s.cause ≠ 0 → t.cause ≠ 0) ∧ (s.vinfo ≠ 0 → t.vinfo ≠ 0) ∧ (s.icause ≠ 0 → t.icause ≠ 0)

theorem keepsFault_refl (s : State) : KeepsFault s s := ⟨rfl, id, id, id⟩

theorem keepsFault_raise_inputFormat (c : ICause) (s : State) : KeepsFault s (raise (.inputFormat c) s) := by
  cases c <;> simp [KeepsFault, icauseCode]

theorem keepsFault_raise_verifyMismatch {v : BitVec 2} (hv : v ≠ 0) (s : State) :
    KeepsFault s (raise (.verifyMismatch v) s) :=
  ⟨rfl, fun _ => by simp, fun _ => hv, id⟩

theorem StepEffect.keepsFault {u t : State} (h : StepEffect u t) : KeepsFault u t := by
  cases h with
  | noWord status lstate acc ndig out _ => exact keepsFault_refl u
  | oneWord status out _ => exact keepsFault_refl u
  | badInput c => exact keepsFault_raise_inputFormat c u
  | mismatch v hv => exact keepsFault_raise_verifyMismatch hv u

/-- A check that raises carries a comparator's bit. -/
theorem keepsFault_checkedY {s : State} {r : Except FaultInfo Word}
    (h : ∀ f, r = .error f → ∃ v, v ≠ 0 ∧ f = .verifyMismatch v) : KeepsFault s (checkedY s r) := by
  cases r with
  | ok y => exact keepsFault_refl s
  | error f =>
    obtain ⟨v, hv, rfl⟩ := h f rfl
    exact keepsFault_raise_verifyMismatch hv s

theorem verify_error_mismatch {yf ys yn : Word} (f : FaultInfo) (h : verify yf ys yn = .error f) :
    ∃ v, v ≠ 0 ∧ f = .verifyMismatch v :=
  ⟨_, (verify_error h).2, (verify_error h).1⟩

theorem revword_error_mismatch {s : State} {x : Word} (f : FaultInfo) (h : revword s x = .error f) :
    ∃ v, v ≠ 0 ∧ f = .verifyMismatch v := by
  rcases revword_cases s x with hw | ⟨v, hv, -, hw⟩
  · exact absurd (hw.symm.trans h) (by simp)
  · exact ⟨v, hv, by simpa using h.symm.trans hw⟩

/-- The formatter and line operations, by their selectors; the others write result wires only. -/
theorem exec_keepsFault {i : Instr} {s t : State} (hi : ∀ m, i ≠ .reset m) (h : exec i s = .next t) : KeepsFault s t := by
  cases i
  case reset m => exact absurd rfl (hi m)
  case verify yf ys yn =>
    obtain ⟨-, -, rfl⟩ := whenSelected_next h
    exact keepsFault_checkedY verify_error_mismatch
  case revword x =>
    obtain ⟨-, -, rfl⟩ := whenSelected_next h
    exact keepsFault_checkedY revword_error_mismatch
  case rxsol it =>
    obtain ⟨hr, -, rfl⟩ := whenSelected_next h
    exact (rxSol_effect hr it).keepsFault
  case rxhdr it =>
    obtain ⟨hr, -, rfl⟩ := whenSelected_next h
    exact (rxHdr_effect hr it).keepsFault
  case rxdata it =>
    obtain ⟨hr, -, rfl⟩ := whenSelected_next h
    exact (rxData_effect hr it).keepsFault
  case word =>
    obtain ⟨hr, -, rfl⟩ := whenSelected_next h
    exact (wordOp_effect hr).keepsFault
  case emit c =>
    obtain ⟨-, -, ht⟩ := whenSelected_next h
    rw [ht, emit_eq]
    exact keepsFault_refl s
  case emitword y =>
    obtain ⟨-, -, ht⟩ := whenSelected_next h
    rw [ht, emitWord_eq]
    exact keepsFault_refl s
  case hdr payload tm =>
    obtain ⟨hr, -, rfl⟩ := whenSelected_next h
    exact (hdrLine_effect hr payload tm).keepsFault
  case data line tm =>
    obtain ⟨hr, -, rfl⟩ := whenSelected_next h
    obtain ⟨acc, ndig, lstate, he⟩ := dataLine_effect hr line tm
    exact he.keepsFault
  all_goals
    obtain rfl := Host.Outcome.next.inj h
    exact keepsFault_refl s

/-! ### The obligations -/

/-- Settles O10: the line elements by the operation that ran, the fault elements by what it did. -/
theorem everyStepKeepsTheInvariant : Obligations.EveryStepKeepsTheInvariant := by
  intro s t h hst
  obtain ⟨hline, hfault⟩ := (inv_iff s).1 h
  exact (inv_iff t).2 ⟨step_lineInv hline hst, step_faultInv hfault hst⟩

/-- Settles O9: the reset state is at the start of a line, with every count and cause 0. -/
theorem invariantHoldsAtReset : Obligations.InvariantHoldsAtReset :=
  ⟨(inv_iff _).2 ⟨lineInv_of_empty (by decide) rfl rfl, faultInv_of_clear (by decide) rfl rfl rfl⟩, rfl⟩

/-- Settles O11: a running state with the invariants has `CAUSE` 0, so a step moves `COL` and the Words emitted together. -/
theorem everyStepKeepsColInStepWithTheWords : Obligations.EveryStepKeepsColInStepWithTheWords := by
  intro s t h hcol hst
  obtain ⟨-, hfault⟩ := (inv_iff s).1 h
  have hc (hr : s.status = .run) : s.cause = 0 := (hfault.clear hr).1
  obtain ⟨ev, rest, -, ⟨m, -, rfl⟩ | ⟨hr, it, -, he⟩ | ⟨hr, line, tm, -, acc, ndig, lstate, he⟩⟩ := step_effect hst
  · rfl
  · exact he.colInv (hc hr) hcol
  · exact he.colInv (hc hr) hcol

/-- Settles O35: the fault is taken in the state with the event taken, in which a line event has changed the line elements only. -/
theorem faultingStepsPutNothingOnOut : Obligations.FaultingStepsPutNothingOnOut := by
  intro s t _ hst ht
  obtain ⟨ev, rest, hin, ⟨m, -, rfl⟩ | ⟨-, it, rfl, he⟩ | ⟨-, line, tm, rfl, acc, ndig, lstate, he⟩⟩ := step_effect hst
  · simp at ht
  · obtain ⟨c, rfl⟩ | ⟨v, rfl⟩ := he.of_fault ht
    · exact ⟨rfl, rfl, rfl, .inr ⟨rfl, rfl, rfl, rfl, icauseCode_cases c⟩, fun _ _ _ => ⟨rfl, rfl, rfl⟩⟩
    · exact ⟨rfl, rfl, rfl, .inl ⟨rfl, rfl, rfl, rfl⟩, fun _ _ _ => ⟨rfl, rfl, rfl⟩⟩
  · have hnoItem (it' : Item) (rest' : List HostEvent) : s.input ≠ .item it' :: rest' := by simp [hin]
    obtain ⟨c, rfl⟩ | ⟨v, rfl⟩ := he.of_fault ht
    · exact ⟨rfl, rfl, rfl, .inr ⟨rfl, rfl, rfl, rfl, icauseCode_cases c⟩, fun it' rest' h => absurd h (hnoItem it' rest')⟩
    · exact ⟨rfl, rfl, rfl, .inl ⟨rfl, rfl, rfl, rfl⟩, fun it' rest' h => absurd h (hnoItem it' rest')⟩

/-- Settles O5: every operation but RESET writes the fault elements through `raise` only, and `MODE` not at all. -/
theorem onlyResetWritesModeOrClearsAFault : Obligations.OnlyResetWritesModeOrClearsAFault :=
  fun _ _ _ => exec_keepsFault

end Sys2Proof.Machine
end

section
/-! SUPPORT. The laws of the reversal (40 R68), the agreement of the three paths (42 R91), one cell by itself (41 R79), and the number a
data line spells (30 R51). -/

namespace Sys2Proof.Machine

/-! ### FAST as a permutation of the bits (40 R67, R68) -/

theorem fast_permutesBits : PermutesBits fast (71 - ·) where
  lt i _ := by omega
  selfInverse i hi := by omega
  bit x i hi := by
    have hbit := fast_isReverse x (71 - i) (by omega)
    rwa [Nat.sub_sub_self (by omega)] at hbit

theorem fast_eq_self_iff (x : Word) : fast x = x ↔ ∀ i : Nat, i < 72 → x.getLsbD i = x.getLsbD (71 - i) := by
  constructor
  · intro h i hi
    rw [← fast_permutesBits.bit x i hi, h]
  · intro h
    refine BitVec.eq_of_getLsbD_eq fun i hi => ?_
    rw [fast_permutesBits.bit x i hi, h i hi]

theorem one_shiftLeft_getLsbD {n i : Nat} (hi : i < 72) : ((1#72) <<< n).getLsbD i = decide (i = n) := by
  rw [BitVec.getLsbD_shiftLeft, BitVec.getLsbD_one, Bool.eq_iff_iff]
  simp only [Bool.and_eq_true, Bool.not_eq_true', decide_eq_true_eq, decide_eq_false_iff_not]
  omega

theorem fast_single {n : Nat} (hn : n < 72) : fast ((1#72) <<< n) = (1#72) <<< (71 - n) := by
  refine BitVec.eq_of_getLsbD_eq fun i hi => ?_
  rw [fast_permutesBits.bit _ i hi, one_shiftLeft_getLsbD hi, one_shiftLeft_getLsbD (by omega), decide_eq_decide]
  omega

theorem fast_or (a b : Word) : fast (a ||| b) = fast a ||| fast b :=
  BitVec.eq_of_getLsbD_eq fun i hi => by simp only [BitVec.getLsbD_or, fast_permutesBits.bit _ i hi]

theorem fast_and (a b : Word) : fast (a &&& b) = fast a &&& fast b :=
  BitVec.eq_of_getLsbD_eq fun i hi => by simp only [BitVec.getLsbD_and, fast_permutesBits.bit _ i hi]

theorem fast_xor (a b : Word) : fast (a ^^^ b) = fast a ^^^ fast b :=
  BitVec.eq_of_getLsbD_eq fun i hi => by simp only [BitVec.getLsbD_xor, fast_permutesBits.bit _ i hi]

/-- Digit `k` of the result is digit `17 - k` of the operand, its four bits reversed. -/
theorem digitAt_fast (x : Word) {k j : Nat} (hk : k < 18) (hj : j < 4) :
    (digitAt (fast x) k).getLsbD j = (digitAt x (17 - k)).getLsbD (3 - j) := by
  have hpos : 71 - (68 - 4 * k + j) = 68 - 4 * (17 - k) + (3 - j) := by omega
  rw [digitAt_getLsbD _ _ hj, digitAt_getLsbD _ _ (by omega), fast_permutesBits.bit x _ (by omega), hpos]

/-! ### The number a data line spells (30 R51) -/

/-- Digits shifted in behind an accumulator that has room for them are read on to base 16. -/
theorem foldl_pushDigit_toNat (ds : List Nibble) {acc : Word} {n : Nat} (h : acc.toNat < 16 ^ n) (hn : n + ds.length ≤ 18) :
    (ds.foldl pushDigit acc).toNat = ds.foldl (fun m d => 16 * m + d.toNat) acc.toNat := by
  induction ds generalizing acc n with
  | nil => rfl
  | cons d ds ih =>
    rw [List.length_cons] at hn
    rw [List.foldl_cons, List.foldl_cons, ih (pushDigit_lt d h (by omega)) (by omega), pushDigit_toNat d h (by omega)]

/-! ### One cell by itself (41 R79; log 7) -/

theorem exec_pcell (k : Fin 36) (x : Word) (s : State) :
    exec (.pcell k x) s = .next (s.setY (pcell k x s.wires.y)) := rfl

/-! ### The obligations -/

/-- Settles O19: FAST permutes the bit positions by `i ↦ 71 - i`, and each law is read off that map. -/
theorem lawsOfTheReversal : Obligations.LawsOfTheReversal :=
  ⟨fast_permutesBits.apply_apply, fast_eq_self_iff, fast_permutesBits.apply_zero, fast_permutesBits.apply_allOnes,
    fun _ => fast_single, fast_permutesBits.setBits_apply, fun a b => ⟨fast_or a b, fast_and a b, fast_xor a b⟩,
    fun x _ _ => digitAt_fast x⟩

/-- Settles O28: all three meet the contract 40 R67, which leaves room for one function only. -/
theorem theThreePathsAgree : Obligations.TheThreePathsAgree := fun x =>
  ⟨(special_eq_fast x).symm, (normal_eq_fast x).symm⟩

/-- Settles O26: the driven bits are the mirror bits of the cell's pair, the others what the wires held, by `pcell_getLsbD`. -/
theorem pcellDrivesItsTwoBits : Obligations.PcellDrivesItsTwoBits := by
  intro k x s
  have hk := k.isLt
  refine ⟨pcell k x s.wires.y, exec_pcell k x s, ?odd, ?even, fun j hj hodd heven => ?rest⟩
  case odd =>
    have hmirror : 71 - (71 - 2 * k.val) = 2 * k.val := by omega
    rw [pcell_getLsbD x (by omega), if_pos (by omega), hmirror]
  case even =>
    have hmirror : 71 - (70 - 2 * k.val) = 2 * k.val + 1 := by omega
    rw [pcell_getLsbD x (by omega), if_pos (by omega), hmirror]
  case rest => rw [pcell_getLsbD x hj, if_neg (by omega)]

/-- Settles O57: the empty accumulator has room for 18 digits. -/
theorem assembledWordIsTheNumber : Obligations.AssembledWordIsTheNumber := fun ds h =>
  foldl_pushDigit_toNat ds (acc := 0) (n := 0) (by decide) (by omega)

end Sys2Proof.Machine
end

section
/-! SUPPORT. What an event selects is what it decodes to (30 R46, 43 R93), and the smallest cases of reset, diagnosis, header lines and
an empty input. -/

namespace Sys2Proof.Machine

/-! ### Selection and decoding -/

theorem selectLine_marker (payload : List Byte) (tm : Term) :
    selectLine (Config.MARKER :: payload) tm = .hdr payload tm := by
  simp [selectLine]

theorem selectLine_cons {b : Byte} (h : b ≠ Config.MARKER) (bs : List Byte) (tm : Term) :
    selectLine (b :: bs) tm = .data (b :: bs) tm := by
  simp [selectLine, h]

theorem selectLine_of_decodeLine {line : List Byte} {tm : Term} {i : Instr} (h : decodeLine line tm = .ok i) :
    selectLine line tm = i := by
  obtain ⟨payload, rfl, -, rfl⟩ | ⟨hd, rfl⟩ := decodeLine_eq_ok_iff.1 h
  · exact selectLine_marker _ tm
  · cases line with
    | nil => exact absurd hd (by decide)
    | cons b bs =>
      have hb : isHexDigit b = true := by
        simp only [dataLineOk, List.all_cons, Bool.and_eq_true] at hd
        exact hd.2.1
      exact selectLine_cons (isHexDigit_ne hb).2 bs tm

theorem select_of_decode {ev : HostEvent} {l : LState} {i : Instr} (h : decode (ev.encoding l) = .ok i) : ev.select l = i := by
  cases ev with
  | item it => exact Except.ok.inj h
  | line line tm => exact selectLine_of_decodeLine h
  | reset m => exact Except.ok.inj h

/-- 30 R53: a malformed data line is still a data line. -/
theorem selectLine_of_badLine {line : List Byte} {tm : Term} {e : LineError} (h : decodeLine line tm = .error (.badLine e)) :
    selectLine line tm = .data line tm := by
  cases line with
  | nil =>
    cases tm with
    | lf => rfl
    | eos => cases h
  | cons b bs =>
    by_cases hm : b = Config.MARKER
    · subst hm
      by_cases hp : payloadOk bs = true
      · rw [decodeLine_header hp] at h
        cases h
      · simp [decodeLine, payloadOk_marker_cons, hp] at h
    · exact selectLine_cons hm bs tm

/-! ### The obligations -/

/-- Settles O7: a step runs what the event selects, which is what it decodes to and, for an item, the operation of `LSTATE`. -/
theorem stepRunsTheDecodedOperation : Obligations.StepRunsTheDecodedOperation := by
  intro s ev rest hin
  rw [step_of_input hin]
  refine ⟨fun i hi => ?decoded, fun line tm e hev he => ?badLine, ?sol, ?hdr, ?data⟩
  case decoded => rw [select_of_decode hi]
  case badLine =>
    subst hev
    exact congrArg (exec · _) (selectLine_of_badLine he)
  case sol => rintro it rfl hl; rw [hl]; rfl
  case hdr => rintro it rfl hl; rw [hl]; rfl
  case data => rintro it rfl hl; rw [hl]; rfl

/-- Settles O2: `resetElements` writes none of the three. -/
theorem resetKeepsTheModelsOwnFields : Obligations.ResetKeepsTheModelsOwnFields := fun m s =>
  ⟨resetElements m s, exec_reset m s, resetElements_upset s m, resetElements_diagText s m, resetElements_wires s m⟩

/-- Settles O3: each element of the table as `State.reset` defines it, and `EXIT` from the status. -/
theorem resetStateIsTheTable : Obligations.ResetStateIsTheTable :=
  ⟨rfl, rfl, rfl, rfl, rfl, rfl, rfl, rfl, rfl, rfl, State.exit_eq_zero (by decide), rfl, rfl, rfl⟩

/-- Settles O36: the text without its line feeds is the body. -/
theorem diagLineIsOneLine : Obligations.DiagLineIsOneLine := by
  intro s
  refine ⟨s.diagText.bytes.filter (· != Config.LF), rfl, fun hmem => ?_⟩
  simp at hmem

/-- Settles O48: the step is RXSOL on `EOS`, which writes `STATUS` only. -/
theorem emptyInputGivesEmptyOutput : Obligations.EmptyInputGivesEmptyOutput := by
  have hrun : step (State.reset.withInput [.item .eos]) = .next (rxSol .eos (State.reset.withInput [])) := by
    rw [step_of_input (State.withInput_input _ _)]
    exact exec_rxsol rfl rfl .eos
  exact ⟨_, hrun, rfl, rfl, rfl, rfl, rfl⟩

/-- Settles O49: HDR happens where its selector holds, and its whole effect is `hdrLine`. -/
theorem hdrCopiesTheLine : Obligations.HdrCopiesTheLine := by
  intro payload s hr hl hlf
  have hp : payloadOk payload = true := payloadOk_iff.2 hlf
  rw [exec_hdr hr hl hp, exec_hdr hr hl hp]
  constructor
  case left => simp [hdrLine, State.outPuts, Term.bytes, hl]
  case right => simp [hdrLine, State.outPuts, Term.bytes]

end Sys2Proof.Machine
end

section
/-! SUPPORT. What stands on `OUT`, on `DIAG` and on the result wires is read by no step (10 R25, R18): a step on a state with other
histories is the same step with those histories in front. -/

namespace Sys2Proof.Machine

/-! ### Histories put in front -/

/-- The state with `o` and `d` put before its `OUT` and `DIAG`, and the result wires `w`. -/
def State.onto (o d : List Byte) (w : Wires) (s : State) : State :=
  { s with out := o ++ s.out, diag := d ++ s.diag, wires := w }

/-- Every state is its unread part with its own histories and wires. -/
theorem State.unread_onto (s : State) : s.unread.onto s.out s.diag s.wires = s := by
  simp [State.onto, State.unread]

/-- An operation that does not read the histories and the wires: putting others in changes nothing but them. -/
def HistoryBlind (op : State → State) : Prop :=
  ∀ (o d : List Byte) (w : Wires) (s : State), op (s.onto o d w) = (op s).onto o d w

theorem raise_historyBlind (f : FaultInfo) : HistoryBlind (raise f) := by
  intro o d w s
  cases f with
  | inputFormat c => rfl
  | verifyMismatch v => simp [raise, State.onto, State.diagLine]

theorem acceptDigits_historyBlind (ds : List Nibble) (n : Nat) : HistoryBlind (acceptDigits ds n) := by
  intro o d w s
  unfold acceptDigits
  split_ifs <;> rfl

theorem resetElements_historyBlind (m : Option (BitVec 1)) : HistoryBlind (resetElements m) := fun _ _ _ _ => rfl

theorem wordOp_historyBlind : HistoryBlind fun s => orRaise s (wordOp s) := by
  intro o d w s
  have hrev : revword (s.onto o d w) (s.onto o d w).acc = revword s s.acc := rfl
  simp only [wordOp, hrev]
  cases revword s s.acc with
  | error f => exact raise_historyBlind f o d w s
  | ok y => simp [orRaise, emitWord_eq, State.onto]

theorem lastWordOp_historyBlind : HistoryBlind fun s => orRaise s (lastWordOp s) := by
  intro o d w s
  have hrev : revword (s.onto o d w) (s.onto o d w).acc = revword s s.acc := rfl
  simp only [lastWordOp, wordOp, hrev]
  cases revword s s.acc with
  | error f => exact raise_historyBlind f o d w s
  | ok y => simp [orRaise, emitWord_eq, State.onto]

theorem rxSol_historyBlind (it : Item) : HistoryBlind (rxSol it) := by
  intro o d w s
  cases it with
  | eos => rfl
  | byte b =>
    simp only [rxSol]
    cases classOf b with
    | mark => simp [State.onto, State.outPut]
    | hexDigit v => rfl
    | lf => exact raise_historyBlind _ o d w s
    | other => exact raise_historyBlind _ o d w s

theorem rxHdr_historyBlind (it : Item) : HistoryBlind (rxHdr it) := by
  intro o d w s
  cases it with
  | eos => rfl
  | byte b =>
    simp only [rxHdr]
    split_ifs <;> simp [State.onto, State.outPut]

theorem rxDigit_historyBlind (v : Nibble) : HistoryBlind (rxDigit v) := by
  intro o d w s
  by_cases h : s.ndig.val < 18
  · rw [rxDigit_of_lt v h, rxDigit_of_lt v (s := s.onto o d w) h]
    rfl
  · rw [rxDigit, rxDigit, dif_neg h, dif_neg (show ¬ (s.onto o d w).ndig.val < 18 from h)]
    exact raise_historyBlind _ o d w s

theorem rxData_historyBlind (it : Item) : HistoryBlind (rxData it) := by
  intro o d w s
  have hn : (s.onto o d w).ndig = s.ndig := rfl
  cases it with
  | eos =>
    simp only [rxData_eos, hn]
    split_ifs
    · exact lastWordOp_historyBlind o d w s
    · exact raise_historyBlind _ o d w s
  | byte b =>
    simp only [rxData, hn]
    cases classOf b with
    | lf =>
      simp only
      split_ifs
      · exact wordOp_historyBlind o d w s
      · exact raise_historyBlind _ o d w s
    | mark => exact raise_historyBlind _ o d w s
    | hexDigit v => exact rxDigit_historyBlind v o d w s
    | other => exact raise_historyBlind _ o d w s

theorem hdrLine_historyBlind (payload : List Byte) (tm : Term) : HistoryBlind (hdrLine payload tm) := by
  intro o d w s
  cases tm <;> simp [hdrLine, State.onto, State.outPuts]

theorem dataLine_historyBlind (line : List Byte) (tm : Term) : HistoryBlind (dataLine line tm) := by
  intro o d w s
  cases hl : lineError line with
  | some e => rw [dataLine_of_malformed hl, dataLine_of_malformed hl, acceptDigits_historyBlind, raise_historyBlind]
  | none =>
    rw [dataLine_of_legal hl, dataLine_of_legal hl, acceptDigits_historyBlind]
    cases tm with
    | lf => exact wordOp_historyBlind o d w _
    | eos => exact lastWordOp_historyBlind o d w _

/-! ### A step -/

/-- An answer with its next state, if it has one, changed by `g`. -/
def mapNext (g : State → State) : Host.Outcome State Fault Refusal → Host.Outcome State Fault Refusal
  | .next t => .next (g t)
  | .fault r => .fault r
  | .refused r => .refused r

theorem whenSelected_onto {op : State → State} (h : HistoryBlind op) (o d : List Byte) (w : Wires) (s : State) (b : Bool) :
    whenSelected (s.onto o d w) b (op (s.onto o d w)) = mapNext (State.onto o d w) (whenSelected s b (op s)) := by
  have hstatus : (s.onto o d w).status = s.status := rfl
  rw [h o d w s]
  unfold whenSelected
  rw [hstatus]
  cases s.status <;> cases b <;> rfl

theorem exec_selectLine_onto (line : List Byte) (tm : Term) (o d : List Byte) (w : Wires) (s : State) :
    exec (selectLine line tm) (s.onto o d w) = mapNext (State.onto o d w) (exec (selectLine line tm) s) := by
  unfold selectLine
  split
  · cases tm with
    | lf => exact whenSelected_onto (dataLine_historyBlind [] .lf) o d w s _
    | eos => exact whenSelected_onto (rxSol_historyBlind .eos) o d w s _
  · split_ifs
    · exact whenSelected_onto (hdrLine_historyBlind _ tm) o d w s _
    · exact whenSelected_onto (dataLine_historyBlind _ tm) o d w s _

theorem exec_select_onto (ev : HostEvent) (l : LState) (o d : List Byte) (w : Wires) (s : State) :
    exec (ev.select l) (s.onto o d w) = mapNext (State.onto o d w) (exec (ev.select l) s) := by
  cases ev with
  | reset m => exact congrArg Host.Outcome.next (resetElements_historyBlind m o d w s)
  | line line tm => exact exec_selectLine_onto line tm o d w s
  | item it =>
    cases l with
    | sol => exact whenSelected_onto (rxSol_historyBlind it) o d w s _
    | hdr => exact whenSelected_onto (rxHdr_historyBlind it) o d w s _
    | data => exact whenSelected_onto (rxData_historyBlind it) o d w s _

theorem step_onto (o d : List Byte) (w : Wires) (s : State) :
    step (s.onto o d w) = mapNext (State.onto o d w) (step s) := by
  have hinput : (s.onto o d w).input = s.input := rfl
  cases hin : s.input with
  | nil =>
    rw [step_of_input_nil hin, step_of_input_nil (hinput.trans hin)]
    rfl
  | cons ev rest =>
    rw [step_of_input hin, step_of_input (hinput.trans hin)]
    exact exec_select_onto ev s.lstate o d w (s.withInput rest)

/-! ### The obligation -/

/-- Settles O8: both steps are the step of the common unread part, with each state's own histories in front and its own wires. -/
theorem historiesAreNeverReadBack : Obligations.HistoriesAreNeverReadBack := by
  intro s s' h
  have hs : step s = mapNext (State.onto s.out s.diag s.wires) (step s.unread) := by
    rw [← step_onto, State.unread_onto]
  have hs' : step s' = mapNext (State.onto s'.out s'.diag s'.wires) (step s.unread) := by
    rw [h, ← step_onto, State.unread_onto]
  rw [hs, hs']
  cases step s.unread with
  | next t => exact ⟨rfl, rfl, rfl, t.out, t.diag, rfl, rfl, rfl, rfl⟩
  | refused r => rfl
  | fault r => cases r

end Sys2Proof.Machine
end

section
/-! SUPPORT. Where a data line's first offence stands (30 R53), and the line level against the item level (43 R107): receiving the items of
a line one by one until the run ends gives what the line-level operation gives at once. -/

namespace Sys2Proof.Machine

/-! ### The first offence of a data line (30 R53) -/

/-- A line is its leading digits and what follows them, which is nothing or begins with a byte that is no digit. -/
theorem exists_leadingDigits_split (line : List Byte) : ∃ pre post, line = pre ++ post ∧
    pre.length = (leadingDigits line).length ∧ pre.all isHexDigit = true ∧
    (post = [] ∨ ∃ b post', post = b :: post' ∧ isHexDigit b = false) := by
  induction line with
  | nil => exact ⟨[], [], rfl, rfl, rfl, .inl rfl⟩
  | cons b bs ih =>
    cases hb : hexDec? b with
    | none => exact ⟨[], b :: bs, rfl, by simp [leadingDigits, hb], rfl, .inr ⟨b, bs, rfl, by simp [isHexDigit, hb]⟩⟩
    | some d =>
      obtain ⟨pre, post, rfl, hlen, hall, hpost⟩ := ih
      exact ⟨b :: pre, post, rfl, by simp [leadingDigits, hb, hlen], by simpa [isHexDigit, hb] using hall, hpost⟩

theorem leadingDigits_length_of_split {pre : List Byte} (hall : pre.all isHexDigit = true) {b : Byte}
    (hb : isHexDigit b = false) (post : List Byte) : (leadingDigits (pre ++ b :: post)).length = pre.length := by
  induction pre with
  | nil =>
    have hnone : hexDec? b = none := by simpa [isHexDigit] using hb
    simp [leadingDigits, hnone]
  | cons c pre ih =>
    simp only [List.all_cons, Bool.and_eq_true] at hall
    obtain ⟨d, hd⟩ := Option.isSome_iff_exists.1 hall.1
    simp [leadingDigits, hd, ih hall.2]

theorem exists_byte_of_leadingDigits {bytes : List Byte} {n : Nat} {d : Nibble} (h : (leadingDigits bytes)[n]? = some d) :
    ∃ b, bytes[n]? = some b ∧ hexDec? b = some d := by
  induction bytes generalizing n with
  | nil => simp [leadingDigits] at h
  | cons b bs ih =>
    cases hb : hexDec? b with
    | none => simp [leadingDigits, hb] at h
    | some v =>
      simp only [leadingDigits, hb] at h
      cases n with
      | zero => exact ⟨b, rfl, hb.trans (by simpa using h)⟩
      | succ n => exact ih (by simpa using h)

/-- What each offence says of the line. -/
theorem lineError_cases {line : List Byte} {e : LineError} (h : lineError line = some e) :
    (line = [] ∧ e = .emptyLine) ∨
    (line ≠ [] ∧ line.length < 18 ∧ e = .tooShort line.length) ∨
    (18 < (leadingDigits line).length ∧ e = .tooLong) ∨
    (∃ pre b post, line = pre ++ b :: post ∧ pre.length ≤ 18 ∧ pre.all isHexDigit = true ∧ isHexDigit b = false ∧
      e = .nonHexAt pre.length) := by
  obtain ⟨pre, post, hsplit, hlen, hall, hpost⟩ := exists_leadingDigits_split line
  have htotal : line.length = pre.length + post.length := by rw [hsplit, List.length_append]
  unfold lineError at h
  simp only at h
  split_ifs at h with hempty hlong hbad hshort <;> obtain rfl := Option.some.inj h
  · exact .inl ⟨List.eq_nil_of_length_eq_zero hempty, rfl⟩
  · exact .inr (.inr (.inl ⟨hlong, rfl⟩))
  · obtain rfl | ⟨b, post', rfl, hb⟩ := hpost
    · exact absurd htotal (by simp only [List.length_nil]; omega)
    · exact .inr (.inr (.inr ⟨pre, b, post', hsplit, by omega, hall, hb, by rw [hlen]⟩))
  · have hfull : (leadingDigits line).length = line.length := by omega
    rw [hfull] at hshort ⊢
    exact .inr (.inl ⟨fun hnil => hempty (by rw [hnil]; rfl), hshort, rfl⟩)

theorem lineError_nonHexAt {pre : List Byte} (hle : pre.length ≤ 18) (hall : pre.all isHexDigit = true) {b : Byte}
    (hb : isHexDigit b = false) (post : List Byte) : lineError (pre ++ b :: post) = some (.nonHexAt pre.length) := by
  have hlen := leadingDigits_length_of_split hall hb post
  simp only [lineError, hlen]
  rw [if_neg (by simp), if_neg (by omega), if_pos (by simp)]

/-- `NONHEX` is the offence exactly of a byte that is no digit after at most 18 digits. -/
theorem lineError_icause_nonHex_iff {line : List Byte} {e : LineError} (h : lineError line = some e) : e.icause = .nonHex ↔
    ∃ pre b post, line = pre ++ b :: post ∧ pre.length ≤ 18 ∧ pre.all isHexDigit = true ∧ isHexDigit b = false := by
  constructor
  · intro he
    obtain ⟨-, rfl⟩ | ⟨-, -, rfl⟩ | ⟨-, rfl⟩ | ⟨pre, b, post, hsplit, hle, hall, hb, -⟩ := lineError_cases h
    · cases he
    · cases he
    · cases he
    · exact ⟨pre, b, post, hsplit, hle, hall, hb⟩
  · rintro ⟨pre, b, post, rfl, hle, hall, hb⟩
    rw [lineError_nonHexAt hle hall hb post] at h
    obtain rfl := Option.some.inj h
    rfl

theorem isDataLine_iff {line : List Byte} {tm : Term} : isDataLine line tm = true ↔
    Config.LF ∉ line ∧ line.head? ≠ some Config.MARKER ∧ ¬ (line = [] ∧ tm = .eos) := by
  simp only [isDataLine, Bool.and_eq_true, payloadOk_iff, bne_iff_ne, Bool.not_eq_true', Bool.and_eq_false_iff,
    List.isEmpty_eq_false_iff, beq_eq_false_iff_ne, not_and_or, and_assoc]

/-! ### Receiving items one by one (43 R93) -/

/-- The receive operation that `LSTATE` selects. -/
def receive (it : Item) (s : State) : State :=
  match s.lstate with
  | .sol => rxSol it s
  | .hdr => rxHdr it s
  | .data => rxData it s

theorem receive_sol {s : State} (h : s.lstate = .sol) (it : Item) : receive it s = rxSol it s := by
  rw [receive, h]

theorem receive_hdr {s : State} (h : s.lstate = .hdr) (it : Item) : receive it s = rxHdr it s := by
  rw [receive, h]

theorem receive_data {s : State} (h : s.lstate = .data) (it : Item) : receive it s = rxData it s := by
  rw [receive, h]

theorem exec_selectItem {s : State} (hr : s.status = .run) (it : Item) :
    exec (selectItem s.lstate it) s = .next (receive it s) := by
  cases hl : s.lstate with
  | sol => exact (exec_rxsol hr hl it).trans (by rw [receive_sol hl])
  | hdr => exact (exec_rxhdr hr hl it).trans (by rw [receive_hdr hl])
  | data => exact (exec_rxdata hr hl it).trans (by rw [receive_data hl])

theorem rxSol_withInput (it : Item) (s : State) (evs : List HostEvent) :
    rxSol it (s.withInput evs) = (rxSol it s).withInput evs := by
  cases it with
  | eos => rfl
  | byte b =>
    simp only [rxSol]
    cases classOf b <;> rfl

theorem rxHdr_withInput (it : Item) (s : State) (evs : List HostEvent) :
    rxHdr it (s.withInput evs) = (rxHdr it s).withInput evs := by
  cases it with
  | eos => rfl
  | byte b =>
    simp only [rxHdr]
    split_ifs <;> rfl

theorem receive_withInput (it : Item) (s : State) (evs : List HostEvent) :
    receive it (s.withInput evs) = (receive it s).withInput evs := by
  cases hl : s.lstate with
  | sol => rw [receive_sol hl, receive_sol (s := s.withInput evs) hl, rxSol_withInput]
  | hdr => rw [receive_hdr hl, receive_hdr (s := s.withInput evs) hl, rxHdr_withInput]
  | data => rw [receive_data hl, receive_data (s := s.withInput evs) hl, rxData_withInput]

/-- Items received one after the other as long as the run goes on. -/
def receiveAll : List Item → State → State
  | [], s => s
  | it :: its, s => if s.status = .run then receiveAll its (receive it s) else s

theorem receiveAll_cons {s : State} (hr : s.status = .run) (it : Item) (its : List Item) :
    receiveAll (it :: its) s = receiveAll its (receive it s) :=
  if_pos hr

theorem receiveAll_of_ended {s : State} (h : s.status ≠ .run) (its : List Item) : receiveAll its s = s := by
  cases its with
  | nil => rfl
  | cons it its => exact if_neg h

theorem drain_of_ended {s : State} (h : s.status ≠ .run) (n : Nat) : drain n s = s := by
  cases n with
  | zero => rfl
  | succ n => cases hs : s.status <;> simp_all [drain]

theorem drain_next {s t : State} (hr : s.status = .run) (h : step s = .next t) (n : Nat) : drain (n + 1) s = drain n t := by
  simp [drain, hr, h]

/-- With items alone pending, steps are the receiving of those items, but for what is left of the input. -/
theorem drain_items (its : List Item) (s : State) :
    (drain its.length (s.withInput (its.map .item))).withInput [] = (receiveAll its s).withInput [] := by
  induction its generalizing s with
  | nil => rfl
  | cons it its ih =>
    have hstatus (evs : List HostEvent) : (s.withInput evs).status = s.status := rfl
    by_cases hr : s.status = .run
    · have hstep : step (s.withInput ((it :: its).map .item)) = .next ((receive it s).withInput (its.map .item)) := by
        rw [step_of_input (ev := .item it) (rest := its.map .item) rfl, ← receive_withInput]
        exact exec_selectItem (s := s.withInput (its.map .item)) hr it
      rw [List.length_cons, drain_next ((hstatus _).trans hr) hstep, ih, receiveAll_cons hr]
    · rw [drain_of_ended (by rwa [hstatus]), receiveAll_of_ended hr]
      rfl

/-! ### The items of a line (30 R42, R43) -/

/-- The items of one line, its end included. -/
def itemsOf (line : List Byte) (tm : Term) : List Item := line.map .byte ++ [tm.item]

theorem lineItems_eq (line : List Byte) (tm : Term) : lineItems line tm = (itemsOf line tm).map .item := by
  simp [lineItems, itemsOf]

theorem itemsOf_length (line : List Byte) (tm : Term) : (itemsOf line tm).length = line.length + 1 := by
  simp [itemsOf]

theorem itemsOf_cons (b : Byte) (line : List Byte) (tm : Term) : itemsOf (b :: line) tm = .byte b :: itemsOf line tm := rfl

theorem itemsOf_take_drop (n : Nat) (line : List Byte) (tm : Term) :
    itemsOf line tm = (line.take n).map .byte ++ itemsOf (line.drop n) tm := by
  rw [itemsOf, itemsOf, ← List.append_assoc, ← List.map_append, List.take_append_drop]

/-! ### A header line (43 R95) -/

/-- Inside a header line whose bytes so far are the marker and `pre`, the rest of the payload and the line's end complete it. -/
theorem receiveAll_payload {payload : List Byte} (hlf : Config.LF ∉ payload) (tm : Term) {s : State} (hr : s.status = .run)
    (pre : List Byte) :
    receiveAll (itemsOf payload tm) { s with out := s.out ++ Config.MARKER :: pre, lstate := .hdr } =
      hdrLine (pre ++ payload) tm s := by
  induction payload generalizing pre with
  | nil =>
    rw [itemsOf, List.map_nil, List.nil_append, receiveAll_cons (by exact hr), receive_hdr rfl]
    cases tm with
    | lf => simp [receiveAll, Term.item, rxHdr_lf, hdrLine, State.outPuts, Term.bytes]
    | eos => simp [receiveAll, Term.item, rxHdr_eos, hdrLine, State.outPuts, Term.bytes]
  | cons b bs ih =>
    obtain ⟨hb, hbs⟩ := List.ne_and_not_mem_of_not_mem_cons hlf
    have hput := ih hbs (pre ++ [b])
    rw [itemsOf_cons, receiveAll_cons (by exact hr), receive_hdr rfl, rxHdr_byte _ (Ne.symm hb)]
    simpa using hput

theorem receiveAll_header {payload : List Byte} (hlf : Config.LF ∉ payload) (tm : Term) {s : State} (hr : s.status = .run)
    (hl : s.lstate = .sol) : receiveAll (itemsOf (Config.MARKER :: payload) tm) s = hdrLine payload tm s := by
  rw [itemsOf_cons, receiveAll_cons hr, receive_sol hl, rxSol_marker]
  exact receiveAll_payload hlf tm hr []

/-! ### A data line (43 R94, R96 to R100) -/

theorem acceptDigits_zero (ds : List Nibble) (s : State) : acceptDigits ds 0 s = s := rfl

theorem acceptDigits_of_ne {n : Nat} (h : n ≠ 0) (ds : List Nibble) (s : State) : acceptDigits ds n s =
    { s with acc := assemble (ds.take n), ndig := Fin.ofNat 19 n, lstate := .data } :=
  if_neg h

theorem acceptDigits_status (ds : List Nibble) (n : Nat) (s : State) : (acceptDigits ds n s).status = s.status := by
  obtain ⟨acc, ndig, lstate, h⟩ := acceptDigits_keeps ds n s
  rw [h]

theorem acceptDigits_lstate {n : Nat} (h : n ≠ 0) (ds : List Nibble) (s : State) : (acceptDigits ds n s).lstate = .data := by
  rw [acceptDigits_of_ne h]

theorem acceptDigits_ndig {n : Nat} (h : n ≠ 0) (hn : n ≤ 18) (ds : List Nibble) (s : State) :
    (acceptDigits ds n s).ndig.val = n := by
  rw [acceptDigits_of_ne h]
  exact Nat.mod_eq_of_lt (by omega)

/-- A line that ends before 18 digits. -/
theorem receive_end_of_short {n : Nat} (h : n ≠ 0) (hn : n < 18) (ds : List Nibble) (tm : Term) (s : State) :
    receive tm.item (acceptDigits ds n s) = raise (.inputFormat .length) (acceptDigits ds n s) := by
  have hnot : (acceptDigits ds n s).ndig ≠ 18 := fun h18 =>
    hn.ne ((acceptDigits_ndig h hn.le ds s).symm.trans (congrArg Fin.val h18))
  rw [receive_data (acceptDigits_lstate h ds s)]
  cases tm with
  | lf => exact (rxData_lf _).trans (if_neg hnot)
  | eos => exact (rxData_eos _).trans (if_neg hnot)

/-- A 19th digit. -/
theorem receive_digit_of_full {b : Byte} {d : Nibble} (hb : hexDec? b = some d) (ds : List Nibble) (s : State) :
    receive (.byte b) (acceptDigits ds 18 s) = raise (.inputFormat .length) (acceptDigits ds 18 s) := by
  rw [receive_data (acceptDigits_lstate (by decide) ds s), rxData_digit _ hb]
  exact rxDigit_of_full d rfl

/-- The end of a line of 18 digits is its Word operation. -/
theorem receive_end_of_legal {line : List Byte} (h : lineError line = none) (tm : Term) (s : State) :
    receive tm.item (acceptDigits (leadingDigits line) 18 s) = dataLine line tm s := by
  have hfull : (acceptDigits (leadingDigits line) 18 s).ndig = 18 := rfl
  rw [dataLine_of_legal h, receive_data (acceptDigits_lstate (by decide) _ s)]
  cases tm with
  | lf => exact (rxData_lf _).trans (if_pos hfull)
  | eos => exact (rxData_eos _).trans (if_pos hfull)

section
variable {s : State} (hl : s.lstate = .sol)
include hl

/-- One more digit is accepted, the first by RXSOL and the others by RXDATA. -/
theorem receive_acceptDigits {ds : List Nibble} {n : Nat} (hn : n < 18) {b : Byte} {d : Nibble} (hd : ds[n]? = some d)
    (hb : hexDec? b = some d) : receive (.byte b) (acceptDigits ds n s) = acceptDigits ds (n + 1) s := by
  have htake : assemble (ds.take (n + 1)) = pushDigit (assemble (ds.take n)) d := by
    simp [assemble, List.take_add_one, hd]
  rw [acceptDigits_of_ne (Nat.succ_ne_zero n), htake]
  by_cases h0 : n = 0
  · subst h0
    have hfirst : pushDigit (assemble (ds.take 0)) d = d.setWidth 72 := by simp [assemble, pushDigit]
    rw [acceptDigits_zero, receive_sol hl, rxSol_digit s hb, hfirst]
    rfl
  · have hlt : (acceptDigits ds n s).ndig.val < 18 := by rwa [acceptDigits_ndig h0 hn.le]
    have hval : (⟨(acceptDigits ds n s).ndig.val + 1, by omega⟩ : Fin 19) = Fin.ofNat 19 (n + 1) := by
      apply Fin.ext
      rw [Fin.val_mk, acceptDigits_ndig h0 hn.le]
      exact (Nat.mod_eq_of_lt (by omega)).symm
    rw [receive_data (acceptDigits_lstate h0 ds s), rxData_digit _ hb, rxDigit_of_lt d hlt, hval, acceptDigits_of_ne h0]

theorem receiveAll_digits (hr : s.status = .run) {line : List Byte} {n : Nat} (hn : n ≤ (leadingDigits line).length)
    (h18 : n ≤ 18) (its : List Item) :
    receiveAll ((line.take n).map .byte ++ its) s = receiveAll its (acceptDigits (leadingDigits line) n s) := by
  induction n generalizing its with
  | zero => rfl
  | succ n ih =>
    have hd := List.getElem?_eq_getElem (l := leadingDigits line) (i := n) (by omega)
    obtain ⟨b, hline, hb⟩ := exists_byte_of_leadingDigits hd
    have hsplit : (line.take (n + 1)).map Item.byte ++ its = (line.take n).map .byte ++ (.byte b :: its) := by
      simp [List.take_add_one, hline]
    rw [hsplit, ih (by omega) (by omega), receiveAll_cons (by rw [acceptDigits_status, hr]),
      receive_acceptDigits hl (by omega) hd hb]

/-- A byte that is no digit, where it neither ends the line nor begins a header line. -/
theorem receive_nonHex {b : Byte} (hb : hexDec? b = none) (hlf : b ≠ Config.LF) {n : Nat} (hm : n = 0 → b ≠ Config.MARKER)
    (ds : List Nibble) : receive (.byte b) (acceptDigits ds n s) = raise (.inputFormat .nonHex) (acceptDigits ds n s) := by
  by_cases h0 : n = 0
  · subst h0
    rw [acceptDigits_zero, receive_sol hl, rxSol_other s hb (hm rfl) hlf]
  · rw [receive_data (acceptDigits_lstate h0 ds s), rxData_nonHex _ hb hlf]

/-- The item at which a malformed line's first offence is met raises its fault. -/
theorem receive_offence {line : List Byte} {tm : Term} {e : LineError} (hdata : isDataLine line tm = true)
    (he : lineError line = some e) : ∃ it its, itemsOf (line.drop e.accepted) tm = it :: its ∧
      receive it (acceptDigits (leadingDigits line) e.accepted s) =
        raise (.inputFormat e.icause) (acceptDigits (leadingDigits line) e.accepted s) := by
  obtain ⟨hlf, hmark, hsome⟩ := isDataLine_iff.1 hdata
  obtain ⟨rfl, rfl⟩ | ⟨hne, hlt, rfl⟩ | ⟨hlong, rfl⟩ | ⟨pre, b, post, rfl, hle, hall, hb, rfl⟩ := lineError_cases he
  · cases tm with
    | lf => exact ⟨_, _, rfl, (receive_sol hl _).trans (rxSol_lf s)⟩
    | eos => exact absurd ⟨rfl, rfl⟩ hsome
  · have h0 : line.length ≠ 0 := fun h => hne (List.eq_nil_of_length_eq_zero h)
    exact ⟨tm.item, [], by simp [LineError.accepted, itemsOf], receive_end_of_short h0 hlt _ tm s⟩
  · obtain ⟨b, hline, hb⟩ := exists_byte_of_leadingDigits (List.getElem?_eq_getElem hlong)
    have hdrop : line.drop 18 = b :: line.drop 19 := by
      obtain ⟨hlt, rfl⟩ := List.getElem?_eq_some_iff.1 hline
      exact List.drop_eq_getElem_cons hlt
    exact ⟨.byte b, itemsOf (line.drop 19) tm, by rw [LineError.accepted, hdrop, itemsOf_cons], receive_digit_of_full hb _ s⟩
  · have hnone : hexDec? b = none := by simpa [isHexDigit] using hb
    have hblf : b ≠ Config.LF := fun h => hlf (by simp [h])
    have hbm (h0 : pre.length = 0) : b ≠ Config.MARKER := by
      obtain rfl := List.eq_nil_of_length_eq_zero h0
      simpa using hmark
    exact ⟨.byte b, itemsOf post tm, by simp [LineError.accepted, itemsOf_cons], receive_nonHex hl hnone hblf hbm _⟩

theorem receiveAll_dataLine (hr : s.status = .run) {line : List Byte} {tm : Term} (hdata : isDataLine line tm = true) :
    receiveAll (itemsOf line tm) s = dataLine line tm s := by
  cases he : lineError line with
  | some e =>
    obtain ⟨hle, h18⟩ := lineError_accepted_le he
    obtain ⟨it, its, hits, hraise⟩ := receive_offence hl hdata he
    rw [itemsOf_take_drop e.accepted, receiveAll_digits hl hr hle h18, hits,
      receiveAll_cons (by rw [acceptDigits_status, hr]), hraise, receiveAll_of_ended (by simp [raise_status]),
      dataLine_of_malformed he]
  | none =>
    have hlen := leadingDigits_of_legal he
    have hall : line.drop 18 = [] := by
      have hok := (lineError_none_iff line).1 he
      simp only [dataLineOk, Bool.and_eq_true, beq_iff_eq] at hok
      exact List.drop_of_length_le hok.1.le
    rw [itemsOf_take_drop 18, receiveAll_digits hl hr hlen.ge (Nat.le_refl 18), hall]
    exact (receiveAll_cons (by rw [acceptDigits_status, hr]) _ _).trans (receive_end_of_legal he tm s)

/-! ### Any line -/

/-- The line-level operation of a line without a line feed gives what its items give one by one. -/
theorem exec_selectLine_eq_receiveAll (hr : s.status = .run) {line : List Byte} (hlf : Config.LF ∉ line) (tm : Term) :
    exec (selectLine line tm) s = .next (receiveAll (itemsOf line tm) s) := by
  have hdataLine (hdata : isDataLine line tm = true) :
      exec (.data line tm) s = .next (receiveAll (itemsOf line tm) s) := by
    rw [receiveAll_dataLine hl hr hdata, exec_data hr hl hdata]
  cases line with
  | nil =>
    cases tm with
    | lf => exact hdataLine rfl
    | eos =>
      rw [itemsOf, List.map_nil, List.nil_append, receiveAll_cons hr, receive_sol hl]
      exact exec_rxsol hr hl .eos
  | cons b bs =>
    by_cases hm : b = Config.MARKER
    · subst hm
      have hp : Config.LF ∉ bs := fun h => hlf (List.mem_cons_of_mem _ h)
      rw [selectLine_marker, receiveAll_header hp tm hr hl, exec_hdr hr hl (payloadOk_iff.2 hp)]
    · rw [selectLine_cons hm]
      exact hdataLine (isDataLine_iff.2 ⟨hlf, by simpa using hm, by simp⟩)

end

/-! ### The obligations -/

/-- Settles O51: the fault is the one of the line's first offence, taken in a state in which only the line elements differ from `s`. -/
theorem dataRejectsAMalformedLine : Obligations.DataRejectsAMalformedLine := by
  intro line tm s hr hl hdata hbad
  cases he : lineError line with
  | none => exact absurd ((lineError_none_iff line).1 he) (by simp [hbad])
  | some e =>
    have hcode : icauseCode e.icause = 1 ↔ e.icause = .nonHex := by cases e.icause <;> decide
    obtain ⟨acc, ndig, lstate, hacc⟩ := acceptDigits_keeps (leadingDigits line) e.accepted s
    rw [exec_data hr hl hdata, dataLine_of_malformed he, hacc]
    exact ⟨_, rfl, rfl, rfl, rfl, rfl, rfl, rfl, rfl, rfl, hcode.trans (lineError_icause_nonHex_iff he), icauseCode_cases _⟩

/-- Settles O52: the steps receive the line's items, and so, all in one, does the line-level operation. -/
theorem lineLevelAgreesWithItemLevel : Obligations.LineLevelAgreesWithItemLevel := by
  intro s line tm hr hl hlf
  refine ⟨_, exec_selectLine_eq_receiveAll hl hr hlf tm, ?_⟩
  rw [lineItems_eq, ← itemsOf_length line tm, drain_items]

end Sys2Proof.Machine
end

section
/-! SUPPORT. A sequence of legal lines with the nominal `UPSET` (43 R108 to R110): what one line does, and how the lines add up. -/

namespace Sys2Proof.Machine

/-! ### The inserted line feeds, counted (43 R109) -/

theorem wrapped_length (c : BitVec 4) (bs : List Byte) : (wrapped c bs).length = bs.length + (c.toNat + bs.length) / 16 := by
  induction bs generalizing c with
  | nil =>
    have hc := c.isLt
    simp only [wrapped, List.length_nil]
    omega
  | cons b bs ih =>
    rw [wrapped]
    split_ifs with hc
    · have hfull : c.toNat = 15 := congrArg BitVec.toNat hc
      have hempty : (0 : BitVec 4).toNat = 0 := rfl
      simp only [List.length_cons, ih, hfull, hempty]
      omega
    · simp only [List.length_cons, ih, add_one_toNat_of_ne hc]
      omega

/-! ### What lines put, and the state after them -/

/-- What one legal line puts on `OUT`: a header line itself; for a data line the reversed Word, spelled, with line feeds between. -/
def IsPiece (p : List Byte × Term) (put : List Byte) : Prop :=
  if dataLineOk p.1 then put.filter (· != 0x0A#8) = spell (fast (assemble (leadingDigits p.1))) else put = p.1 ++ p.2.bytes

/-- The state after the lines, which put `put` from `s`, running at the start of a line; the input is as in `s`. -/
def afterLines (lines : List (List Byte × Term)) (put : List Byte) (s : State) : State :=
  { s with
    out := s.out ++ put
    col := s.col + BitVec.ofNat 4 (2 * dataLines lines)
    widx := s.widx + dataLines lines
    status := if lines.any (fun p => p.2 == .eos) then .done else .run
    lstate := if lines.any (fun p => p.2 == .eos && !dataLineOk p.1) then .hdr else .sol }

/-- The length that 43 R108 and R109 give what the lines put from column `c`. -/
def putLength (c : BitVec 4) (lines : List (List Byte × Term)) : Nat :=
  18 * dataLines lines + (c.toNat + 18 * dataLines lines) / 16 + headerBytes lines

theorem dataLines_cons (p : List Byte × Term) (lines : List (List Byte × Term)) :
    dataLines (p :: lines) = dataLines [p] + dataLines lines := by
  simp only [dataLines, List.countP_cons, List.countP_nil]
  omega

theorem headerBytes_cons (p : List Byte × Term) (lines : List (List Byte × Term)) :
    headerBytes (p :: lines) = headerBytes [p] + headerBytes lines := by
  cases hp : dataLineOk p.1 <;> simp [headerBytes, hp]

/-- After an LF the next lines go on from where the first one ended. -/
theorem afterLines_cons (line : List Byte) (lines : List (List Byte × Term)) (put puts : List Byte) (s : State) :
    afterLines ((line, .lf) :: lines) (put ++ puts) s = afterLines lines puts (afterLines [(line, .lf)] put s) := by
  have hlf : (Term.lf == Term.eos) = false := rfl
  simp only [afterLines, dataLines_cons (line, .lf) lines, Nat.mul_add, BitVec.ofNat_add, List.any_cons, hlf, Bool.false_and,
    Bool.false_or, List.append_assoc, BitVec.add_assoc, Nat.add_assoc]

theorem putLength_cons (c : BitVec 4) (p : List Byte × Term) (lines : List (List Byte × Term)) :
    putLength c (p :: lines) = putLength c [p] + putLength (c + BitVec.ofNat 4 (2 * dataLines [p])) lines := by
  have hcol : (c + BitVec.ofNat 4 (2 * dataLines [p])).toNat = (c.toNat + 2 * dataLines [p]) % 16 := by
    rw [BitVec.toNat_add, BitVec.toNat_ofNat, Nat.add_mod_mod]
  simp only [putLength, hcol, dataLines_cons p lines, headerBytes_cons p lines]
  omega

/-! ### One line -/

/-- With the nominal `UPSET` a Word is processed without a fault and comes out reversed (42 R92, 43 R101). -/
theorem wordOp_of_nominal {s : State} (h : s.upsetNow = Upset.nominal) : wordOp s = .ok { s with
    widx := s.widx + 1, out := s.out ++ wrapped s.col (spell (fast s.acc)), col := s.col + 2,
    acc := 0, ndig := 0, lstate := .sol } := by
  have hagree : s.upsetAgrees := by
    rw [State.upsetAgrees, h]
    exact ⟨rfl, rfl⟩
  have hpath : pathF s s.acc = fast s.acc := by
    rw [pathF, h]
    exact BitVec.xor_zero
  rw [wordOp_of_agrees fun _ => hagree, hpath]

/-- One data line, from a state that holds no digits. -/
theorem dataLine_of_nominal {s : State} (hr : s.status = .run) (ha : s.acc = 0) (hn : s.ndig = 0)
    (hup : s.upsetNow = Upset.nominal) {line : List Byte} (hok : dataLineOk line = true) (tm : Term) :
    dataLine line tm s =
      afterLines [(line, tm)] (wrapped s.col (spell (fast (assemble (leadingDigits line))))) s := by
  have hlegal := (lineError_none_iff line).2 hok
  have hword := wordOp_of_nominal
    (s := { s with acc := assemble (leadingDigits line), ndig := 18, lstate := .data }) hup
  rw [dataLine_of_legal hlegal, acceptDigits_of_legal hlegal]
  cases tm with
  | lf =>
    simp only [hword, orRaise]
    simp [afterLines, dataLines, hok, hr, ha, hn]
  | eos => simp [lastWordOp, hword, orRaise, afterLines, dataLines, hok, ha, hn]

theorem hdrLine_eq_afterLines {s : State} (hr : s.status = .run) {payload : List Byte}
    (hno : dataLineOk (Config.MARKER :: payload) = false) (tm : Term) :
    hdrLine payload tm s =
      afterLines [(Config.MARKER :: payload, tm)] (Config.MARKER :: payload ++ tm.bytes) s := by
  cases tm <;> simp [hdrLine, State.outPuts, afterLines, dataLines, hno, hr]

theorem dataLineOk_marker (payload : List Byte) : dataLineOk (Config.MARKER :: payload) = false := by
  simp [dataLineOk, isHexDigit, hexDec?_marker]

/-- What one legal line does. -/
theorem exec_legalLine {s : State} (hr : s.status = .run) (hl : s.lstate = .sol) (ha : s.acc = 0) (hn : s.ndig = 0)
    (hup : s.upsetNow = Upset.nominal) {p : List Byte × Term} {i : Instr} (hp : decodeLine p.1 p.2 = .ok i) :
    ∃ put, IsPiece p put ∧ put.length = putLength s.col [p] ∧
      ∀ evs, exec (selectLine p.1 p.2) (s.withInput evs) = .next ((afterLines [p] put s).withInput evs) := by
  obtain ⟨line, tm⟩ := p
  rw [selectLine_of_decodeLine hp]
  obtain ⟨payload, rfl, hpay, rfl⟩ | ⟨hok, rfl⟩ := decodeLine_eq_ok_iff.1 hp
  · have hno := dataLineOk_marker payload
    refine ⟨Config.MARKER :: payload ++ tm.bytes, ?_, ?_, fun evs => ?_⟩
    · simp [IsPiece, hno]
    · have hc : s.col.toNat / 16 = 0 := Nat.div_eq_of_lt s.col.isLt
      simp [putLength, dataLines, headerBytes, hno, hc, Nat.add_right_comm]
    · rw [exec_hdr (s := s.withInput evs) hr hl hpay, hdrLine_eq_afterLines (s := s.withInput evs) hr hno]
      rfl
  · refine ⟨wrapped s.col (spell (fast (assemble (leadingDigits line)))), ?_, ?_, fun evs => ?_⟩
    · rw [IsPiece, if_pos hok]
      exact filter_wrapped s.col fun _ => ne_lf_of_mem_spell
    · simp [putLength, dataLines, headerBytes, hok, wrapped_length, spell_length]
    · rw [exec_data (s := s.withInput evs) hr hl (isDataLine_of_legal hok tm),
        dataLine_of_nominal (s := s.withInput evs) hr ha hn hup hok]
      rfl

/-! ### All the lines -/

/-- The pending input that delivers the lines one by one. -/
def lineEvents (lines : List (List Byte × Term)) : List HostEvent := lines.map fun p => .line p.1 p.2

theorem drain_legalLines (lines : List (List Byte × Term)) {s : State} (hr : s.status = .run) (hl : s.lstate = .sol)
    (ha : s.acc = 0) (hn : s.ndig = 0) (hup : ∀ k, s.upset.draw k = Upset.nominal)
    (hlegal : ∀ p ∈ lines, ∃ i, decodeLine p.1 p.2 = .ok i) (hlf : ∀ p ∈ lines.dropLast, p.2 = .lf) :
    ∃ puts, List.Forall₂ IsPiece lines puts ∧ puts.flatten.length = putLength s.col lines ∧
      drain lines.length (s.withInput (lineEvents lines)) = (afterLines lines puts.flatten s).withInput [] := by
  induction lines generalizing s with
  | nil =>
    have hc : s.col.toNat / 16 = 0 := Nat.div_eq_of_lt s.col.isLt
    refine ⟨[], .nil, ?_, ?_⟩
    · simp [putLength, dataLines, headerBytes, hc]
    · simp [drain, afterLines, lineEvents, dataLines, ← hr, ← hl, State.withInput]
  | cons p lines ih =>
    obtain ⟨⟨i, hp⟩, hrestLegal⟩ := List.forall_mem_cons.1 hlegal
    obtain ⟨put, hpiece, hlen, hexec⟩ := exec_legalLine hr hl ha hn (hup s.widx) hp
    have hstep : step (s.withInput (lineEvents (p :: lines))) = .next ((afterLines [p] put s).withInput (lineEvents lines)) :=
      (step_of_input (ev := .line p.1 p.2) (rest := lineEvents lines) rfl).trans (hexec _)
    have hdrain := drain_next (s := s.withInput (lineEvents (p :: lines))) hr hstep lines.length
    obtain ⟨line, tm⟩ := p
    cases tm with
    | eos =>
      have hlast : lines = [] := by
        cases lines with
        | nil => rfl
        | cons q qs => exact absurd (hlf (line, .eos) (by simp)) (by simp)
      subst hlast
      exact ⟨[put], .cons hpiece .nil, by simpa using hlen, by simpa [drain, lineEvents] using hdrain⟩
    | lf =>
      have hrest : ∀ q ∈ lines.dropLast, q.2 = Term.lf := by
        intro q hq
        cases lines with
        | nil => simp at hq
        | cons r rs => exact hlf q (by simp [hq])
      obtain ⟨puts, hpieces, hputs, hall⟩ := ih (s := afterLines [(line, .lf)] put s) rfl rfl ha hn hup hrestLegal hrest
      refine ⟨put :: puts, .cons hpiece hpieces, ?_, ?_⟩
      · rw [List.flatten_cons, List.length_append, hlen, hputs, putLength_cons s.col (line, .lf) lines]
        rfl
      · rw [List.flatten_cons, afterLines_cons, ← hall]
        exact hdrain

/-! ### The obligation -/

/-- Settles O53: at the start of a line the invariants leave `ACC` and `NDIG` 0; then the lines add up, one after the other. -/
theorem dataLinesComeOutReversedInOrderAndRewrapped : Obligations.DataLinesComeOutReversedInOrderAndRewrapped := by
  intro lines s hinv hr hl hup hlegal hlf
  obtain ⟨hline, -⟩ := (inv_iff s).1 hinv
  obtain ⟨hn, ha⟩ := hline.empty (by simp [hl])
  exact drain_legalLines lines hr hl ha hn hup hlegal hlf

end Sys2Proof.Machine
end
